-- ==== Sys2Proof/Word.lean ====
section
/-! DEFINITION. The widths of the block: words, bytes, command words, and the fixed-size register files (rules R6, R7, R9). -/

namespace Sys2Proof

/-- A 32-bit word `x[31:0]`, bit 0 the least significant (R6 `WORD_BITS`, R7). -/
abbrev Word := BitVec 32

/-- A byte `b[7:0]`, bit 7 the most significant (R7). -/
abbrev Byte := BitVec 8

/-- A word of the command port (R6 `CMD_BITS`, R56). -/
abbrev CmdWord := BitVec 16

/-- One 64-byte unit of the padded message (R6 `BLOCK_BYTES`, R12). -/
abbrev Block := Vector Byte 64

/-- The eight state words H[0..7] (R6 `STATE_WORDS`, R15). -/
abbrev HashState := Vector Word 8

/-- The message schedule W[0..63] (R6 `SCHED_WORDS`, R18). -/
abbrev Schedule := Vector Word 64

end Sys2Proof
end

