-- ==== Sys2Proof/Config.lean ====
section
/-! DEFINITION. The implementation parameters of rule R6 that are not already a width of Word.lean, and the one OPEN
parameter a statement can speak of, the latency of a command (R142, R143), which has no value. -/

namespace Sys2Proof.Config

/-- `ROUNDS` of R6: the number of rounds of one compression. -/
def rounds : Nat := 64

/-- `MAX_MSG_BYTES` of R6: the largest number of message bytes, 2^61 − 1 (R72). -/
def maxMsgBytes : Nat := 2 ^ 61 - 1

/-- `MAX_MSG_BITS` of R6. -/
def maxMsgBits : Nat := 2 ^ 64 - 1

/-- The time from acceptance to response of a command, as a function of what R143 lets it depend on: the opcode (bits
15:12 of the word) and the number of compressions the command performs. `COMPRESS_LATENCY` is OPEN in R6, so no value is
given: no rule and no step of the model reads it (R142). See notes/assumptions/6.md. -/
opaque commandLatency : BitVec 4 → Nat → Nat

end Sys2Proof.Config
end

