-- ==== Sys2Proof/Syntax.lean ====
section
/-! DEFINITION. The nine commands of spec/opcode_table.json (R58), one constructor a row. -/

namespace Sys2Proof

/-- A command, with its operand as the assembler line names it (R57, R63): ABSORB takes a message byte, the four indexed
reads take an index, the other commands take none. An index is a number; that it fits the 8-bit operand field is checked
by `Instr.WellFormed`, that it names an existing element is checked when the command is performed (R57). -/
inductive Instr where
  /-- NOP: no operation (R108). -/
  | nop
  /-- INIT: begin a computation (R109). -/
  | init
  /-- ABSORB d: take in one message byte (R110). -/
  | absorb (d : Byte)
  /-- FINISH: pad and compress the final block or blocks (R111). -/
  | finish
  /-- RDSTAT: read the status word (R112). -/
  | rdstat
  /-- RDW i: read one state word (R113). -/
  | rdw (i : Nat)
  /-- RDB m: read one digest byte (R114). -/
  | rdb (m : Nat)
  /-- RDH c: read one hexadecimal digest character (R115). -/
  | rdh (c : Nat)
  /-- RDL i: read half of the message bit length (R116). -/
  | rdl (i : Nat)
deriving DecidableEq, Repr

end Sys2Proof
end

