-- ==== Sys2Proof/WellFormed.lean ====
section
/-! DEFINITION. Which commands have an encoding: an index operand fits the 8-bit field `opd` (R57, R63). -/

namespace Sys2Proof

/-- The command can be written as a C16 word: its index is an unsigned integer 0..255 ("An operand above 255 is an
assembly error", R63). An index inside 0..255 but above the command's own range is well formed; performing it raises
BAD_INDEX (R57). -/
abbrev Instr.WellFormed (i : Instr) : Prop :=
  match i with
  | .nop => True
  | .init => True
  | .absorb _ => True
  | .finish => True
  | .rdstat => True
  | .rdw i => i < 256
  | .rdb m => m < 256
  | .rdh c => c < 256
  | .rdl i => i < 256

end Sys2Proof
end

