-- ==== Sys2Proof/Decode.lean ====
section
/-! DEFINITION. The command format C16 and its decoder and encoder (R56 to R62). -/

namespace Sys2Proof

/-- The opcode field `op`, bits 15:12 (R56). -/
def opField (w : CmdWord) : BitVec 4 := w.extractLsb' 12 4

/-- The reserved field `rsv`, bits 11:8 (R56). -/
def rsvField (w : CmdWord) : BitVec 4 := w.extractLsb' 8 4

/-- The operand field `opd`, bits 7:0 (R56). -/
def opdField (w : CmdWord) : Byte := w.extractLsb' 0 8

/-- The three fields of a C16 word put together (R56). -/
def packFields (op rsv : BitVec 4) (opd : Byte) : CmdWord := op ++ rsv ++ opd

/-- Why a word is ILLEGAL, the three cases of R61. -/
inductive IllegalWord where
  /-- The field `rsv` is not 0000. -/
  | reservedField
  /-- The opcode is one of 0x9 to 0xF. -/
  | reservedOpcode
  /-- NOP, INIT, FINISH or RDSTAT with a nonzero operand. -/
  | nonzeroOperand
deriving DecidableEq, Repr

/-- A command without operand: its operand must be 0x00 (R57, R59). -/
def plainCommand (opd : Byte) (i : Instr) : Except IllegalWord Instr :=
  if opd = 0 then .ok i else .error .nonzeroOperand

/-- `Decode` of R59: total on every 16-bit word, and reading no state. -/
def decode (w : CmdWord) : Except IllegalWord Instr :=
  if rsvField w ≠ 0 then .error .reservedField
  else
    match (opField w).toNat with
    | 0x0 => plainCommand (opdField w) .nop
    | 0x1 => plainCommand (opdField w) .init
    | 0x2 => .ok (.absorb (opdField w))
    | 0x3 => plainCommand (opdField w) .finish
    | 0x4 => plainCommand (opdField w) .rdstat
    | 0x5 => .ok (.rdw (opdField w).toNat)
    | 0x6 => .ok (.rdb (opdField w).toNat)
    | 0x7 => .ok (.rdh (opdField w).toNat)
    | 0x8 => .ok (.rdl (opdField w).toNat)
    | _ => .error .reservedOpcode

/-- The decoder on a word numbered as spec/opcode_table.json numbers it: every command is exactly 16 bits (R62), and the
bits above `nbits` are 0. -/
def decodeTableWord (nbits w : Nat) : Option Instr :=
  match decode (BitVec.ofNat 16 (w % 2 ^ nbits)) with
  | .ok i => some i
  | .error _ => none

/-- The opcode of a command (R58). -/
def opcode (i : Instr) : BitVec 4 :=
  match i with
  | .nop => 0x0
  | .init => 0x1
  | .absorb _ => 0x2
  | .finish => 0x3
  | .rdstat => 0x4
  | .rdw _ => 0x5
  | .rdb _ => 0x6
  | .rdh _ => 0x7
  | .rdl _ => 0x8

/-- The operand field of a command: the byte, the index, or 0x00 (R57). -/
def operandByte (i : Instr) : Byte :=
  match i with
  | .nop => 0
  | .init => 0
  | .absorb d => d
  | .finish => 0
  | .rdstat => 0
  | .rdw i => BitVec.ofNat 8 i
  | .rdb m => BitVec.ofNat 8 m
  | .rdh c => BitVec.ofNat 8 c
  | .rdl i => BitVec.ofNat 8 i

/-- The word of a well-formed command: its opcode, `rsv` = 0000 and its operand (R56, R58). -/
def encode (i : Instr) : CmdWord := packFields (opcode i) 0 (operandByte i)

/-- One row of the opcode table: `match` and `mask` (R58). -/
structure OpcodeRow where
  mnemonic : String
  matchBits : CmdWord
  mask : CmdWord
deriving DecidableEq, Repr

/-- Whether a word is the command of a row: (w AND mask) = match (R58). -/
abbrev OpcodeRow.matches (r : OpcodeRow) (w : CmdWord) : Prop := w &&& r.mask = r.matchBits

/-- The row of R58 a command belongs to. -/
def opcodeRow (i : Instr) : OpcodeRow :=
  match i with
  | .nop => ⟨"NOP", 0x0000, 0xFFFF⟩
  | .init => ⟨"INIT", 0x1000, 0xFFFF⟩
  | .absorb _ => ⟨"ABSORB", 0x2000, 0xFF00⟩
  | .finish => ⟨"FINISH", 0x3000, 0xFFFF⟩
  | .rdstat => ⟨"RDSTAT", 0x4000, 0xFFFF⟩
  | .rdw _ => ⟨"RDW", 0x5000, 0xFF00⟩
  | .rdb _ => ⟨"RDB", 0x6000, 0xFF00⟩
  | .rdh _ => ⟨"RDH", 0x7000, 0xFF00⟩
  | .rdl _ => ⟨"RDL", 0x8000, 0xFF00⟩

/-- The nine rows of R58 in the table's order. -/
def opcodeTable : List OpcodeRow :=
  [.nop, .init, .absorb 0, .finish, .rdstat, .rdw 0, .rdb 0, .rdh 0, .rdl 0].map opcodeRow

end Sys2Proof
end

