-- ==== Sys2Proof/Machine/State.lean ====
section
/-! DEFINITION. The state of the block, its ports and the host that drives them, as plain data, and the state after reset. -/

namespace Sys2Proof.Machine

/-- The phase register (R24). Code 3 is never held, so it has no constructor. -/
inductive Phase where
  /-- Code 0: a computation is open and accepts message bytes. -/
  | absorb
  /-- Code 1: FINISH has run, the digest is readable. -/
  | done
  /-- Code 2: an error was raised, the computation is dead until INIT or reset. -/
  | error
deriving DecidableEq, Repr

/-- The error register (R25, R118). Codes 5 to 15 are never written, so they have no constructor. -/
inductive ErrorCode where
  /-- Code 0, NONE. -/
  | noError
  /-- Code 1, LEN_OVERFLOW. -/
  | lenOverflow
  /-- Code 2, SEQUENCE. -/
  | sequence
  /-- Code 3, ILLEGAL_CMD. -/
  | illegalCmd
  /-- Code 4, BAD_INDEX. -/
  | badIndex
deriving DecidableEq, Repr

/-- A response (ok, data) (R55). -/
structure Response where
  ok : Bool
  data : Word
deriving DecidableEq, Repr

/-- The working variables a..h (R17). -/
structure WorkingVars where
  a : Word
  b : Word
  c : Word
  d : Word
  e : Word
  f : Word
  g : Word
  h : Word
deriving DecidableEq, Repr

/-- The transient state of the compression engine (R17, R18, R29): working variables, schedule, round counter and BUSY.
No command reads the first three, and BUSY gates the command port (R140). -/
structure Engine where
  /-- a..h. -/
  vars : WorkingVars
  /-- W[0..63]. -/
  w : Schedule
  /-- The round counter rc, 0 to 64. -/
  rc : BitVec 7
  /-- BUSY: a compression is in progress. -/
  busy : Bool
deriving DecidableEq, Repr

/-- What a host does to the block (R54, R138). -/
inductive HostAction where
  /-- Present a word on the command port and hold it until it is accepted. -/
  | present (w : CmdWord)
  /-- Take the response from the response port. -/
  | take
  /-- Assert reset while no command is in progress (R133). -/
  | reset
  /-- Assert reset while the command accepted next is in progress (R134). -/
  | resetDuring
deriving DecidableEq, Repr

/-- The host beside the block: what it will do, in order, and the responses it has taken, in order. It is the model's own
agent, not a part of the block (notes/assumptions/1.md). -/
structure HostSide where
  script : List HostAction
  taken : List Response
deriving DecidableEq, Repr

/-- The machine: the registers of spec/10_state.md, the two ports of R54, and the host that drives them. -/
structure State where
  /-- H[0..7] (R15). -/
  h : HashState
  /-- The length register L, 61 bits (R22). -/
  len : BitVec 61
  /-- The block buffer buf[0..63] (R21). -/
  buf : Block
  /-- The phase register (R24). -/
  phase : Phase
  /-- The error register (R25). -/
  err : ErrorCode
  /-- a..h, W, rc and BUSY (R17, R18, R29). -/
  engine : Engine
  /-- The command port: the word presented and not yet accepted (R54). -/
  cmd : Option CmdWord
  /-- The response port: the response not yet taken (R54, R138). -/
  resp : Option Response
  /-- The host (R138). -/
  host : HostSide
deriving DecidableEq, Repr

/-- Why the machine stops with a fault: never. Every error of the block is a next state in phase ERROR (R121), and no
behaviour of the block is stuck (spec/93_implementation_defined.md, after the table of its part 1), so no step raises a
fault and there is no constructor. -/
inductive Fault
deriving DecidableEq, Repr

/-- Why a step is refused. -/
inductive Refusal where
  /-- Raised by exec for an instruction without a meaning yet; safe. No arm of this model raises it. -/
  | notModelled (mnemonic : String)
deriving DecidableEq, Repr

/-- The engine after reset: BUSY = 0 (R133). R133 leaves a..h, W and rc unspecified; the model holds zeros there
(notes/assumptions/2.md), and no command reads them. -/
def Engine.reset : Engine where
  vars := ⟨0, 0, 0, 0, 0, 0, 0, 0⟩
  w := Vector.replicate 64 0
  rc := 0
  busy := false

/-- The state after reset (R133): H = IV, L = 0, buf all 0x00, phase ABSORB, err NONE, no response on the port, and a host
that has nothing to do. -/
def State.reset : State where
  h := initialValues
  len := 0
  buf := Vector.replicate 64 0
  phase := .absorb
  err := .noError
  engine := Engine.reset
  cmd := none
  resp := none
  host := ⟨[], []⟩

end Sys2Proof.Machine
end

