-- ==== Sys2Proof/Machine/Operands.lean ====
section
/-! DEFINITION. Operand forms and byte order: the byte operand, the index operand and its range, and the big-endian
conversions of R9. -/

namespace Sys2Proof.Machine

/-- `BE32(s[j..j+3])` of R9: four bytes as a big-endian word. -/
def be32 (b0 b1 b2 b3 : Byte) : Word := b0 ++ b1 ++ b2 ++ b3

/-- `BE32bytes(x)` of R9: a word as four bytes, most significant first. -/
def be32Bytes (x : Word) : Vector Byte 4 :=
  #v[x.extractLsb' 24 8, x.extractLsb' 16 8, x.extractLsb' 8 8, x.extractLsb' 0 8]

/-- `BE64bytes(v)` of R9: a 64-bit value as eight bytes, most significant first. -/
def be64Bytes (v : BitVec 64) : Vector Byte 8 :=
  #v[v.extractLsb' 56 8, v.extractLsb' 48 8, v.extractLsb' 40 8, v.extractLsb' 32 8,
     v.extractLsb' 24 8, v.extractLsb' 16 8, v.extractLsb' 8 8, v.extractLsb' 0 8]

/-- `zext_32` of a byte (R7, R44). -/
def zextByte (b : Byte) : Word := b.setWidth 32

/-- The number of elements each indexed read reaches (R35): RDW. -/
abbrev stateWords : Nat := 8

/-- R35: RDB. -/
abbrev digestBytes : Nat := 32

/-- R35: RDH. -/
abbrev hexChars : Nat := 64

/-- R35: RDL. -/
abbrev lengthHalves : Nat := 2

/-- The largest value of L, 2^61 − 1 (R22, R72). -/
def maxLen : BitVec 61 := BitVec.ofNat 61 Config.maxMsgBytes

end Sys2Proof.Machine
end

