-- ==== Sys2Proof/Machine/WordOps.lean ====
section
/-! DEFINITION. The word operations of the datapath (R65 to R70). -/

namespace Sys2Proof.Machine

/-- `rotr(x, n)`, 32-bit circular right rotation, 1 ≤ n ≤ 31 (R65). -/
def rotr (x : Word) (n : Nat) : Word := (x >>> n) ||| (x <<< (32 - n))

/-- `x >> n`, logical right shift (R66). -/
def shr (x : Word) (n : Nat) : Word := x >>> n

/-- A sum of words modulo 2^32 (R67): the carries are discarded. -/
def sumWords (terms : List Word) : Word := terms.foldl (· + ·) 0

/-- `x AND y` (R68). -/
def wordAnd (x y : Word) : Word := x &&& y

/-- `x XOR y` (R69). -/
def wordXor (x y : Word) : Word := x ^^^ y

/-- `NOT x = x XOR 0xFFFFFFFF` (R70). -/
def wordNot (x : Word) : Word := x ^^^ 0xFFFFFFFF

end Sys2Proof.Machine
end

