-- ==== Sys2Proof/Machine/Scheduler.lean ====
section
/-! DEFINITION. The message scheduler (R79 to R84): a pure function of the block. -/

namespace Sys2Proof.Machine

/-- `σ0(x) = rotr(x,7) XOR rotr(x,18) XOR (x >> 3)` (R79). -/
def smallSigma0 (x : Word) : Word := wordXor (wordXor (rotr x 7) (rotr x 18)) (shr x 3)

/-- `σ1(x) = rotr(x,17) XOR rotr(x,19) XOR (x >> 10)` (R80). -/
def smallSigma1 (x : Word) : Word := wordXor (wordXor (rotr x 17) (rotr x 19)) (shr x 10)

/-- Word t of a block, t < 16, read big-endian: `BE32(B[4t..4t+3])` (R38, R81). -/
def blockWord (b : Block) (t : Fin 16) : Word := be32 b[4 * t.val] b[4 * t.val + 1] b[4 * t.val + 2] b[4 * t.val + 3]

/-- The schedule with W[0..15] loaded from the block (R81). W[16..63] hold zeros until `expandWords` writes them. -/
def loadWords (b : Block) : Schedule :=
  Vector.ofFn fun t : Fin 64 => if ht : t.val < 16 then blockWord b ⟨t.val, ht⟩ else 0

/-- The recurrence of R82: `W[i−16] + σ0(W[i−15]) + W[i−7] + σ1(W[i−2])`. -/
def nextWord (w : Schedule) (i : Nat) (hi : 16 ≤ i ∧ i < 64) : Word :=
  sumWords [w[i - 16], smallSigma0 w[i - 15], w[i - 7], smallSigma1 w[i - 2]]

/-- The schedule after W[16] .. W[15 + n] have been written in ascending order (R82). -/
def expandWords (w : Schedule) : (n : Nat) → n ≤ 48 → Schedule
  | 0, _ => w
  | n + 1, hn =>
    let w' := expandWords w n (by omega)
    w'.set (16 + n) (nextWord w' (16 + n) (by omega)) (by omega)

/-- `Schedule(B)` = W[0..63] (R83). -/
def schedule (b : Block) : Schedule := expandWords (loadWords b) 48 (Nat.le_refl 48)

/-- The 16-word implementation of R84: the most recent words, oldest first. Before round 16 they are W[0..15]. -/
def windowStart (b : Block) : Vector Word 16 := Vector.ofFn fun t => blockWord b t

/-- One step of the 16-word implementation: drop the oldest word and append the next (R84). -/
def windowShift (v : Vector Word 16) : Vector Word 16 :=
  let new := sumWords [v[0], smallSigma0 v[1], v[9], smallSigma1 v[14]]
  Vector.ofFn fun j : Fin 16 => if hj : j.val < 15 then v[j.val + 1] else new

/-- The window after n steps: it holds the words n .. n + 15. -/
def windowAfter (b : Block) : Nat → Vector Word 16
  | 0 => windowStart b
  | n + 1 => windowShift (windowAfter b n)

/-- The word the 16-word implementation gives to round i: a word of the first window, else the newest word of the window
computed just before round i (R84). -/
def windowWord (b : Block) (i : Fin 64) : Word :=
  if hi : i.val < 16 then (windowStart b)[i.val] else (windowAfter b (i.val - 15))[15]

end Sys2Proof.Machine
end

