-- ==== Sys2Proof/Machine/Compressor.lean ====
section
/-! DEFINITION. The round function, the compression of one block as a pure function (R85 to R94), and the engine that
performs it round by round with its counter and BUSY bit (R28, R29). -/

namespace Sys2Proof.Machine

/-- `Σ1(x) = rotr(x,6) XOR rotr(x,11) XOR rotr(x,25)` (R85). -/
def bigSigma1 (x : Word) : Word := wordXor (wordXor (rotr x 6) (rotr x 11)) (rotr x 25)

/-- `Σ0(x) = rotr(x,2) XOR rotr(x,13) XOR rotr(x,22)` (R86). -/
def bigSigma0 (x : Word) : Word := wordXor (wordXor (rotr x 2) (rotr x 13)) (rotr x 22)

/-- `Ch(e,f,g) = (e AND f) XOR ((NOT e) AND g)` (R87). -/
def choose (e f g : Word) : Word := wordXor (wordAnd e f) (wordAnd (wordNot e) g)

/-- `Maj(a,b,c) = (a AND b) XOR (a AND c) XOR (b AND c)` (R88). -/
def majority (a b c : Word) : Word := wordXor (wordXor (wordAnd a b) (wordAnd a c)) (wordAnd b c)

/-- `temp1 = h + Σ1(e) + Ch(e,f,g) + K[i] + W[i]` (R89). -/
def temp1 (v : WorkingVars) (k w : Word) : Word := sumWords [v.h, bigSigma1 v.e, choose v.e v.f v.g, k, w]

/-- `temp2 = Σ0(a) + Maj(a,b,c)` (R90). -/
def temp2 (v : WorkingVars) : Word := sumWords [bigSigma0 v.a, majority v.a v.b v.c]

/-- `Round(i, (a..h))` with the schedule word of round i (R91): all eight assignments take the values from before the round. -/
def roundStep (i : Fin 64) (wi : Word) (v : WorkingVars) : WorkingVars :=
  let t1 := temp1 v roundConstants[i] wi
  let t2 := temp2 v
  { a := sumWords [t1, t2], b := v.a, c := v.b, d := v.c, e := sumWords [v.d, t1], f := v.e, g := v.f, h := v.g }

/-- `(a..h) <- (H[0], .., H[7])` (R92). -/
def loadVars (h : HashState) : WorkingVars := ⟨h[0], h[1], h[2], h[3], h[4], h[5], h[6], h[7]⟩

/-- The working variables after rounds 0 .. n−1 (R92). -/
def varsAfter (w : Schedule) (v : WorkingVars) : (n : Nat) → n ≤ 64 → WorkingVars
  | 0, _ => v
  | n + 1, hn => roundStep ⟨n, hn⟩ w[n] (varsAfter w v n (by omega))

/-- The final addition of R92: `(H[0] + a, .., H[7] + h)`, each modulo 2^32. -/
def foldVars (h : HashState) (v : WorkingVars) : HashState :=
  #v[sumWords [h[0], v.a], sumWords [h[1], v.b], sumWords [h[2], v.c], sumWords [h[3], v.d],
     sumWords [h[4], v.e], sumWords [h[5], v.f], sumWords [h[6], v.g], sumWords [h[7], v.h]]

/-- `Compress(H, B)` (R92): schedule, 64 rounds in ascending order, final addition. -/
def compress (h : HashState) (b : Block) : HashState :=
  foldVars h (varsAfter (schedule b) (loadVars h) 64 (Nat.le_refl 64))

/-- Blocks compressed in order, each from the state the previous one left (R93). -/
def compressBlocks (h : HashState) (bs : List Block) : HashState := bs.foldl compress h

/-- The engine as a compression begins: variables and schedule loaded, rc = 0, BUSY = 1 (R29, R92). -/
def Engine.start (h : HashState) (b : Block) : Engine where
  vars := loadVars h
  w := schedule b
  rc := 0
  busy := true

/-- The engine performs the round its counter names and counts; after round 63 the counter holds 64 and nothing more
happens (R28, R29). -/
def Engine.tick (e : Engine) : Engine :=
  if hr : e.rc.toNat < 64 then
    { e with vars := roundStep ⟨e.rc.toNat, hr⟩ e.w[e.rc.toNat] e.vars, rc := e.rc + 1 }
  else e

/-- n rounds of the engine. -/
def Engine.ticks (e : Engine) : Nat → Engine
  | 0 => e
  | n + 1 => (e.ticks n).tick

/-- A whole compression in the engine, up to its final addition. -/
def Engine.run (h : HashState) (b : Block) : Engine := (Engine.start h b).ticks 64

/-- The compression of a block by the machine, one atomic act at this level (R29, R45): the engine runs its 64 rounds, H
receives the final addition, and BUSY falls. Nothing but H and the engine is written (R94). -/
def compressBlock (b : Block) (s : State) : State :=
  let e := Engine.run s.h b
  { s with h := foldVars s.h e.vars, engine := { e with busy := false } }

end Sys2Proof.Machine
end

