-- ==== Sys2Proof/Machine/Flags.lean ====
section
/-! DEFINITION. The status the host can read: STATUS and its fields (R24 to R26), and LENGTH (R27). The block has no
condition codes and no carry flag (R30). -/

namespace Sys2Proof.Machine

/-- The 2-bit code of a phase (R24). -/
def Phase.code (p : Phase) : BitVec 2 :=
  match p with
  | .absorb => 0
  | .done => 1
  | .error => 2

/-- The 4-bit code of an error (R25). -/
def ErrorCode.code (e : ErrorCode) : BitVec 4 :=
  match e with
  | .noError => 0
  | .lenOverflow => 1
  | .sequence => 2
  | .illegalCmd => 3
  | .badIndex => 4

/-- BCNT = L[5:0], the number of bytes in the buffer; not stored (R23). -/
def bcnt (s : State) : BitVec 6 := s.len.extractLsb' 0 6

/-- STATUS (R26): `zext_32(L[5:0]) << 8 | zext_32(err) << 4 | zext_32(phase)`. -/
def status (s : State) : Word :=
  ((bcnt s).setWidth 32 <<< 8) ||| (s.err.code.setWidth 32 <<< 4) ||| s.phase.code.setWidth 32

/-- LENGTH (R27): the bit length Lb = `zext_64(L) << 3`. -/
def bitLength (s : State) : BitVec 64 := s.len.setWidth 64 <<< 3

/-- One half of LENGTH: half 0 is Lb[31:0], every other half asked for is Lb[63:32] (R27, R116). -/
def bitLengthHalf (half : Nat) (s : State) : Word :=
  if half = 0 then (bitLength s).extractLsb' 0 32 else (bitLength s).extractLsb' 32 32

end Sys2Proof.Machine
end

