-- ==== Sys2Proof/Machine/Ops.lean ====
section
/-! DEFINITION. The operations the commands share: responding, error entry (this hardware's exception entry) and the way
out of ERROR, the checks made before a command acts, and the block buffer. -/

namespace Sys2Proof.Machine

/-- What performing a command answers. -/
abbrev Result := Host.Outcome State Fault Refusal

/-- `respond(ok, data)` of R10 and R55: the response of the current command is placed on the response port. -/
def respond (ok : Bool) (data : Word) (s : State) : State := { s with resp := some ⟨ok, data⟩ }

/-- The command succeeds with `data` as its result (R55). -/
def succeed (data : Word) (s : State) : Result := .next (respond true data s)

/-- `raise Error(code)`, error entry (R121): phase ← ERROR, err ← code, response (0, 0); nothing else changes. -/
def raiseError (code : ErrorCode) (s : State) : Result :=
  .next (respond false 0 { s with phase := .error, err := code })

/-- A command ignored in phase ERROR: response (0, 0) and no state change (R107). -/
def ignored (s : State) : Result := .next (respond false 0 s)

/-- What INIT and reset write (R109, R133), and the only way out of phase ERROR (R123): H ← IV, L ← 0, buf ← 0x00,
phase ← ABSORB, err ← NONE. -/
def beginComputation (s : State) : State :=
  { s with h := initialValues, len := 0, buf := Vector.replicate 64 0, phase := .absorb, err := .noError }

/-- The gate of R105 and R107: in phase ERROR the command is ignored, elsewhere it goes on. -/
def unlessError (s : State) (act : Result) : Result :=
  match s.phase with
  | .error => ignored s
  | .absorb => act
  | .done => act

/-- The phase check of R106: a command not allowed in the phase raises SEQUENCE. -/
def onlyInPhase (p : Phase) (s : State) (act : Result) : Result :=
  if s.phase = p then act else raiseError .sequence s

/-- The index check of R57 and R118: an index at or above the number of elements raises BAD_INDEX. -/
def withIndex (count : Nat) (i : Nat) (s : State) (act : i < count → Result) : Result :=
  if hi : i < count then act hi else raiseError .badIndex s

/-- An illegal word (R117): ILLEGAL_CMD in ABSORB and DONE, ignored in ERROR. -/
def execIllegal (s : State) : Result := unlessError s (raiseError .illegalCmd s)

/-- `buf` with byte `d` at position BCNT (R75, R76). -/
def bufWith (d : Byte) (s : State) : Block := s.buf.set (bcnt s).toNat d (bcnt s).isLt

/-- `for j = 0..63: buf[j] <- 0x00` (R75, R76, R109). -/
def clearBuf (s : State) : State := { s with buf := Vector.replicate 64 0 }

end Sys2Proof.Machine
end

