-- ==== Sys2Proof/Machine/Control.lean ====
section
/-! DEFINITION. The commands that act in every phase: NOP, INIT and RDSTAT (R108, R109, R112). -/

namespace Sys2Proof.Machine

/-- NOP (R108). -/
def execNop (s : State) : Result := succeed 0 s

/-- INIT (R109). -/
def execInit (s : State) : Result := succeed 0 (beginComputation s)

/-- RDSTAT (R112). -/
def execRdstat (s : State) : Result := succeed (status s) s

end Sys2Proof.Machine
end

