-- ==== Sys2Proof/Machine/Formatter.lean ====
section
/-! DEFINITION. The digest formatter (R98 to R101). -/

namespace Sys2Proof.Machine

/-- `Format(H)[4k + j] = H[k][31 − 8j : 24 − 8j]` (R98). -/
def formatDigest (h : HashState) : Vector Byte 32 :=
  Vector.ofFn fun m : Fin 32 => h[m.val / 4].extractLsb' (24 - 8 * (m.val % 4)) 8

/-- `HexDigit(v)`, an ASCII code (R99). -/
def hexDigit (v : BitVec 4) : Byte := if v.toNat < 10 then 0x30 + v.setWidth 8 else 0x57 + v.setWidth 8

/-- `Hex(H)`: each digest byte gives two characters, high nibble first (R100). -/
def hexDigest (h : HashState) : Vector Byte 64 :=
  Vector.ofFn fun c : Fin 64 => hexDigit ((formatDigest h)[c.val / 2].extractLsb' (4 - 4 * (c.val % 2)) 4)

/-- The 4-bit value a lowercase hexadecimal character stands for (R99, R101). -/
def hexValue (c : Byte) : BitVec 4 := if c.toNat < 0x61 then (c - 0x30).setWidth 4 else (c - 0x57).setWidth 4

/-- The digest read back from its hexadecimal form: each pair of characters is one byte, high nibble first (R101). -/
def readHexDigest (cs : Vector Byte 64) : Vector Byte 32 :=
  Vector.ofFn fun m : Fin 32 => hexValue cs[2 * m.val] ++ hexValue cs[2 * m.val + 1]

end Sys2Proof.Machine
end

