-- ==== Sys2Proof/Machine/Reads.lean ====
section
/-! DEFINITION. The indexed reads: RDW, RDB, RDH and RDL (R113 to R116). -/

namespace Sys2Proof.Machine

/-- RDW i (R113): H[i] in ABSORB and DONE. -/
def execRdw (i : Nat) (s : State) : Result :=
  unlessError s <| withIndex stateWords i s fun hi => succeed (s.h[i]'hi) s

/-- RDB m (R114): byte m of the digest, in DONE only; the phase is checked before the index. -/
def execRdb (m : Nat) (s : State) : Result :=
  unlessError s <| onlyInPhase .done s <| withIndex digestBytes m s fun hm =>
    succeed (zextByte ((formatDigest s.h)[m]'hm)) s

/-- RDH c (R115): character c of the hexadecimal digest, in DONE only; the phase is checked before the index. -/
def execRdh (c : Nat) (s : State) : Result :=
  unlessError s <| onlyInPhase .done s <| withIndex hexChars c s fun hc =>
    succeed (zextByte ((hexDigest s.h)[c]'hc)) s

/-- RDL i (R116): half i of the message bit length in ABSORB and DONE. -/
def execRdl (i : Nat) (s : State) : Result :=
  unlessError s <| withIndex lengthHalves i s fun _ => succeed (bitLengthHalf i s) s

end Sys2Proof.Machine
end

