-- ==== Sys2Proof/Machine/Padder.lean ====
section
/-! DEFINITION. The padding unit: padding as a function of the whole message (R71 to R74), and the streaming unit that
performs it with one block of storage (R75, R76). -/

namespace Sys2Proof.Machine

/-- The number k of zero bytes: `(55 − L) mod 64` (R71). -/
def padZeros (length : Nat) : Nat := ((55 - (length : Int)) % 64).toNat

/-- `Pad(M) = M ++ [0x80] ++ zeros(k) ++ BE64bytes(8·L)` (R71). R71 defines it for L ≤ 2^61 − 1 only. DESIGN CHOICE: for a
longer list, which no step reaches and which has no SHA-256 value here, the length field is 8·L modulo 2^64
(notes/assumptions/13.md). -/
def pad (m : List Byte) : List Byte :=
  m ++ [0x80] ++ List.replicate (padZeros m.length) 0 ++ (be64Bytes (BitVec.ofNat 64 (8 * m.length))).toList

/-- Bytes 64n .. 64n + 63 of a byte sequence (R74); positions past its end read 0x00. -/
def blockAt (p : List Byte) (n : Nat) : Block := Vector.ofFn fun j => p.getD (64 * n + j.val) 0

/-- `Blocks(P)`: the whole 64-byte blocks of a byte sequence, in order (R74). R74 defines it for whole blocks only; a rest
below 64 bytes is in no block (notes/assumptions/13.md). -/
def blocks (p : List Byte) : List Block := (List.range (p.length / 64)).map (blockAt p)

/-- The block a message byte completes, if it completes one (R75). -/
def completedBlocks (d : Byte) (s : State) : List Block := if bcnt s = 63 then [bufWith d s] else []

/-- `PadAbsorb` (R75). -/
def padAbsorb (d : Byte) (s : State) : State :=
  let s1 := { s with buf := bufWith d s, len := s.len + 1 }
  if bcnt s = 63 then clearBuf (compressBlock s1.buf s1) else s1

/-- `buf[56..63] <- BE64bytes(Lb)` (R76). -/
def withLengthField (b : Block) (lb : BitVec 64) : Block :=
  Vector.ofFn fun j : Fin 64 => if hj : 56 ≤ j.val then (be64Bytes lb)[j.val - 56] else b[j]

/-- The one or two blocks FINISH passes to Compress (R76). -/
def finalBlocks (s : State) : List Block :=
  if (bcnt s).toNat ≤ 55 then [withLengthField (bufWith 0x80 s) (bitLength s)]
  else [bufWith 0x80 s, withLengthField (Vector.replicate 64 0) (bitLength s)]

/-- `PadFinal` (R76). -/
def padFinal (s : State) : State := clearBuf ((finalBlocks s).foldl (fun t b => compressBlock b t) s)

/-- The blocks the streaming unit passes to Compress for the rest `m` of a message and the padding, from state `s` (R77). -/
def passedBlocks (m : List Byte) (s : State) : List Block :=
  match m with
  | [] => finalBlocks s
  | d :: rest => completedBlocks d s ++ passedBlocks rest (padAbsorb d s)

end Sys2Proof.Machine
end

