-- ==== Sys2Proof/Machine/Stream.lean ====
section
/-! DEFINITION. The commands that take in a message and end it: ABSORB and FINISH (R110, R111). -/

namespace Sys2Proof.Machine

/-- ABSORB d (R110): acts in ABSORB, SEQUENCE in DONE, ignored in ERROR; LEN_OVERFLOW at L = 2^61 − 1. -/
def execAbsorb (d : Byte) (s : State) : Result :=
  unlessError s <| onlyInPhase .absorb s <|
    if s.len = maxLen then raiseError .lenOverflow s else succeed 0 (padAbsorb d s)

/-- FINISH (R111): acts in ABSORB, SEQUENCE in DONE, ignored in ERROR. -/
def execFinish (s : State) : Result :=
  unlessError s <| onlyInPhase .absorb s <| succeed 0 { padFinal s with phase := .done }

end Sys2Proof.Machine
end

