-- ==== Sys2Proof/Machine/Dispatch.lean ====
section
/-! DEFINITION. One arm per command: `Perform(cmd)` of R105, each command with the gate of R107. -/

namespace Sys2Proof.Machine

def exec (i : Instr) (s : State) : Host.Outcome State Fault Refusal :=
  match i with
  | .nop => Sys2Proof.Machine.execNop s
  | .init => Sys2Proof.Machine.execInit s
  | .absorb d => Sys2Proof.Machine.execAbsorb d s
  | .finish => Sys2Proof.Machine.execFinish s
  | .rdstat => Sys2Proof.Machine.execRdstat s
  | .rdw k => Sys2Proof.Machine.execRdw k s
  | .rdb m => Sys2Proof.Machine.execRdb m s
  | .rdh c => Sys2Proof.Machine.execRdh c s
  | .rdl k => Sys2Proof.Machine.execRdl k s

end Sys2Proof.Machine
end

