-- ==== Sys2Proof/Machine/Ports.lean ====
section
/-! DEFINITION. The command port, the response port and the reset input, and the host at their other side (R54, R133, R134,
R138 to R140). -/

namespace Sys2Proof.Machine

/-- The word the engine accepts now: one is presented, the engine is not busy (R54, R140), and the previous response has
been taken (R138). Otherwise a presented word waits, unconsumed. -/
def acceptable (s : State) : Option CmdWord :=
  match s.cmd, s.resp, s.engine.busy with
  | some w, none, false => some w
  | _, _, _ => none

/-- The presented word is consumed: it is accepted exactly once (R54). -/
def consumeWord (s : State) : State := { s with cmd := none }

/-- The host's script without its first entry. -/
def dropAction (s : State) : State := { s with host := { s.host with script := s.host.script.tail } }

/-- The reset input (R133): every register of the block is put in its reset state and the response port is emptied. A word
the host presents and the block has not accepted stays presented, and the host is not reset (notes/assumptions/3.md). -/
def resetBlock (s : State) : State := { State.reset with cmd := s.cmd, host := s.host }

/-- The host asserts reset while the command accepted now is in progress (R134). -/
def cutByReset (s : State) : Bool := s.host.script.head? == some .resetDuring

/-- A command cut short by reset (R134): it is abandoned and gets no response, and the block is in its reset state. -/
def cutCommand (s : State) : State := resetBlock (dropAction (consumeWord s))

/-- The host presents a word (R138): it goes to the command port when the port is free, and otherwise the host still holds
the word it presented before. -/
def presentWord (w : CmdWord) (s : State) : State :=
  match s.cmd with
  | none => { dropAction s with cmd := some w }
  | some _ => s

/-- The host takes the response, if there is one (R138). -/
def takeResponse (s : State) : State :=
  let t := dropAction s
  { t with resp := none, host := { t.host with taken := t.host.taken ++ s.resp.toList } }

/-- What happens while the engine accepts nothing: the host does what its script says next. With nothing to do, the block
holds all its state (R132, R135). -/
def hostMove (s : State) : State :=
  match s.host.script with
  | [] => s
  | .present w :: _ => presentWord w s
  | .take :: _ => takeResponse s
  | .reset :: _ => resetBlock (dropAction s)
  | .resetDuring :: _ => resetBlock (dropAction s)

/-- The state with the command word `w` on the command port, ready to be accepted by the next step: no response pending,
engine not busy, no reset about to cut the command. -/
def placeWord (w : CmdWord) (s : State) : State :=
  { s with
    cmd := some w
    resp := none
    engine := { s.engine with busy := false }
    host := { s.host with script := s.host.script.dropWhile (· == .resetDuring) } }

end Sys2Proof.Machine
end

