-- ==== Sys2Proof/Machine/Step.lean ====
section
/-! DEFINITION. The step: one accepted command, performed whole (R105, R139), or else one act of the host. -/

namespace Sys2Proof.Machine

/-- `Step(w)` of R105: the word is decoded; a command is performed, an illegal word is an illegal command. -/
def perform (w : CmdWord) (s : State) : Host.Outcome State Fault Refusal :=
  match decode w with
  | .ok i => exec i s
  | .error _ => execIllegal s

/-- One step of the machine. A word that can be accepted is consumed and performed (unless reset cuts it short, R134);
otherwise the host acts. -/
def step (s : State) : Host.Outcome State Fault Refusal :=
  match acceptable s with
  | some w => if cutByReset s then .next (cutCommand s) else perform w (consumeWord s)
  | none => .next (hostMove s)

/-- The state with the instruction word numbered as spec/opcode_table.json numbers it on the command port, so that the next
step accepts and performs it. The block fetches no instructions (R52): the host presents each one. -/
def State.withFetchWord (s : State) (nbits w : Nat) : State := placeWord (BitVec.ofNat 16 (w % 2 ^ nbits)) s

end Sys2Proof.Machine
end

