-- ==== Sys2Proof/Machine/Assembler.lean ====
section
/-! DEFINITION. The assembler syntax of R63 and the pseudo-commands of R64. It is not part of the machine (decision D26):
it says which command words a line of text stands for. -/

namespace Sys2Proof.Machine

/-- Why a line does not assemble. -/
inductive AsmError where
  /-- The line does not begin with a mnemonic of R58 or R64. -/
  | unknownMnemonic
  /-- The operand is absent or is not a number or character of R63. -/
  | badOperand
  /-- The operand is above 255 (R63). -/
  | operandTooLarge
  /-- Something other than a comment follows the command. -/
  | trailingText
deriving DecidableEq, Repr

/-- The pseudo-commands of R64. The text of ABSORBS is the list of its ASCII codes. -/
inductive Pseudo where
  | absorbs (text : List Byte)
  | absorbb (bytes : List Byte)
  | hash (bytes : List Byte)
  | digest
  | hexdigest
  | state
  | length
deriving DecidableEq, Repr

/-- The expansions of R64. -/
def expand (p : Pseudo) : List Instr :=
  match p with
  | .absorbs text => text.map .absorb
  | .absorbb bytes => bytes.map .absorb
  | .hash bytes => .init :: bytes.map .absorb ++ [.finish]
  | .digest => (List.range 32).map .rdb
  | .hexdigest => (List.range 64).map .rdh
  | .state => (List.range 8).map .rdw
  | .length => (List.range 2).map .rdl

/-- A blank between the parts of a line. -/
def isBlank (c : Char) : Bool := c == ' ' || c == '\t'

/-- The text after its leading blanks. -/
def skipBlanks (cs : List Char) : List Char := cs.dropWhile isBlank

/-- Nothing is left on the line but blanks and a comment; comments start with `;` (R63). -/
def endsLine (cs : List Char) : Bool :=
  match skipBlanks cs with
  | [] => true
  | c :: _ => c == ';'

/-- The value of a digit of R63, below 10 in decimal and below 16 in hexadecimal. -/
def digitValue (base : Nat) (c : Char) : Option Nat :=
  let v := if c.toNat < 0x41 then c.toNat - 0x30 else if c.toNat < 0x61 then c.toNat - 0x37 else c.toNat - 0x57
  if c.toNat < 0x30 ∨ (0x39 < c.toNat ∧ c.toNat < 0x41) ∨ (0x46 < c.toNat ∧ c.toNat < 0x61) ∨ base ≤ v then none else some v

/-- Read digits as far as they go; `acc` is the value so far, `none` before the first digit. -/
def readDigits (base : Nat) (acc : Option Nat) (cs : List Char) : Option Nat × List Char :=
  match cs with
  | [] => (acc, [])
  | c :: rest =>
    match digitValue base c with
    | some v => readDigits base (some (acc.getD 0 * base + v)) rest
    | none => (acc, c :: rest)

/-- An unsigned integer in decimal, or in hexadecimal with `0x` (R63), and the text after it. -/
def readNumber (cs : List Char) : Option Nat × List Char :=
  match cs with
  | '0' :: 'x' :: rest => readDigits 16 none rest
  | _ => readDigits 10 none cs

/-- An operand 0..255 (R63). -/
def readOperand (cs : List Char) : Except AsmError (Nat × List Char) :=
  match readNumber (skipBlanks cs) with
  | (none, _) => .error .badOperand
  | (some v, rest) => if v < 256 then .ok (v, rest) else .error .operandTooLarge

/-- A byte operand of ABSORB: a number, or a character in single quotes standing for its ASCII code (R63). -/
def readByte (cs : List Char) : Except AsmError (Byte × List Char) :=
  match skipBlanks cs with
  | '\'' :: c :: '\'' :: rest => if c.toNat < 128 then .ok (BitVec.ofNat 8 c.toNat, rest) else .error .badOperand
  | other =>
    match readOperand other with
    | .ok (v, rest) => .ok (BitVec.ofNat 8 v, rest)
    | .error e => .error e

/-- The bytes of a quoted text up to the closing quote (R64). DESIGN CHOICE, where R64 is silent: the first double quote closes the
text and there is no escape, so a text that holds a double quote cannot be written (notes/assumptions/9.md). -/
def readText (cs : List Char) : Except AsmError (List Byte × List Char) :=
  match cs with
  | [] => .error .badOperand
  | '"' :: rest => .ok ([], rest)
  | c :: rest =>
    match readText rest with
    | .ok (bytes, more) => if c.toNat < 128 then .ok (BitVec.ofNat 8 c.toNat :: bytes, more) else .error .badOperand
    | .error e => .error e

/-- The bytes `b0, b1, ..., bn` of ABSORBB and HASH (R64), at most `fuel` of them. -/
def readBytes (fuel : Nat) (cs : List Char) : Except AsmError (List Byte × List Char) :=
  match fuel with
  | 0 => .error .badOperand
  | n + 1 =>
    match readByte cs with
    | .error e => .error e
    | .ok (b, rest) =>
      match skipBlanks rest with
      | ',' :: more =>
        match readBytes n more with
        | .ok (bytes, last) => .ok (b :: bytes, last)
        | .error e => .error e
      | other => .ok ([b], other)

/-- The commands, if the rest of the line is empty. -/
def atLineEnd (is : List Instr) (rest : List Char) : Except AsmError (List Instr) :=
  if endsLine rest then .ok is else .error .trailingText

/-- One operand, then the end of the line. -/
def withOperand (mk : Nat → Instr) (cs : List Char) : Except AsmError (List Instr) :=
  match readOperand cs with
  | .ok (v, rest) => atLineEnd [mk v] rest
  | .error e => .error e

/-- The bytes of a list, then the end of the line. -/
def withBytes (mk : List Byte → Pseudo) (cs : List Char) : Except AsmError (List Instr) :=
  match readBytes cs.length cs with
  | .ok (bytes, rest) => atLineEnd (expand (mk bytes)) rest
  | .error e => .error e

/-- One line: blank, or the mnemonic and then its operands (R63, R64). DESIGN CHOICE: `.word`, which the listings P4 and P6 of
spec/95_test_vectors.md use for a raw word and R63 and R64 do not name, is no command and does not assemble; no blank need stand
between the mnemonic and its operand; and a line that is blank or holds a comment only is no command and no error
(all notes/assumptions/9.md). -/
def assembleLine (line : List Char) : Except AsmError (List Instr) :=
  let cs := skipBlanks line
  let rest := cs.dropWhile Char.isAlpha
  if endsLine cs then .ok []
  else
    match cs.takeWhile Char.isAlpha with
    | ['N', 'O', 'P'] => atLineEnd [.nop] rest
    | ['I', 'N', 'I', 'T'] => atLineEnd [.init] rest
    | ['A', 'B', 'S', 'O', 'R', 'B'] =>
      match readByte rest with
      | .ok (b, more) => atLineEnd [.absorb b] more
      | .error e => .error e
    | ['F', 'I', 'N', 'I', 'S', 'H'] => atLineEnd [.finish] rest
    | ['R', 'D', 'S', 'T', 'A', 'T'] => atLineEnd [.rdstat] rest
    | ['R', 'D', 'W'] => withOperand .rdw rest
    | ['R', 'D', 'B'] => withOperand .rdb rest
    | ['R', 'D', 'H'] => withOperand .rdh rest
    | ['R', 'D', 'L'] => withOperand .rdl rest
    | ['A', 'B', 'S', 'O', 'R', 'B', 'S'] =>
      match skipBlanks rest with
      | '"' :: text =>
        match readText text with
        | .ok (bytes, more) => atLineEnd (expand (.absorbs bytes)) more
        | .error e => .error e
      | _ => .error .badOperand
    | ['A', 'B', 'S', 'O', 'R', 'B', 'B'] => withBytes .absorbb rest
    | ['H', 'A', 'S', 'H'] => if endsLine rest then .ok (expand (.hash [])) else withBytes .hash rest
    | ['D', 'I', 'G', 'E', 'S', 'T'] => atLineEnd (expand .digest) rest
    | ['H', 'E', 'X', 'D', 'I', 'G', 'E', 'S', 'T'] => atLineEnd (expand .hexdigest) rest
    | ['S', 'T', 'A', 'T', 'E'] => atLineEnd (expand .state) rest
    | ['L', 'E', 'N', 'G', 'T', 'H'] => atLineEnd (expand .length) rest
    | _ => .error .unknownMnemonic

/-- A program, one command per line (R63), as the words it stands for. -/
def assemble (lines : List (List Char)) : Except AsmError (List CmdWord) :=
  match lines with
  | [] => .ok []
  | l :: ls =>
    match assembleLine l, assemble ls with
    | .ok is, .ok ws => .ok (is.map encode ++ ws)
    | .error e, _ => .error e
    | .ok _, .error e => .error e

end Sys2Proof.Machine
end

