-- ==== Sys2Proof/Machine/Hash.lean ====
section
/-! DEFINITION. The function the block computes (R103). -/

namespace Sys2Proof.Machine

/-- The state SHA-256 reaches over a message: IV folded over the blocks of the padded message (R103). -/
def hashState (m : List Byte) : HashState := compressBlocks initialValues (blocks (pad m))

/-- `SHA256(M)`: it has no value for a message longer than 2^61 − 1 bytes (R103). -/
def sha256 (m : List Byte) : Option (Vector Byte 32) :=
  if m.length ≤ Config.maxMsgBytes then some (formatDigest (hashState m)) else none

/-- `SHA256hex(M)` (R103). -/
def sha256Hex (m : List Byte) : Option (Vector Byte 64) :=
  if m.length ≤ Config.maxMsgBytes then some (hexDigest (hashState m)) else none

end Sys2Proof.Machine
end

