-- ==== Sys2Proof/Machine/Instances.lean ====
section
/-! DEFINITION. Several instances of the block side by side (R34, R130): each has its own state, and they share only the ROM
contents, which no command writes. -/

namespace Sys2Proof.Machine

/-- The state after one step of the machine. A step always answers a next state; the other two outcomes keep the state. -/
def stepped (s : State) : State :=
  match step s with
  | .next t => t
  | .fault _ => s
  | .refused _ => s

/-- n steps. -/
def steppedTimes (s : State) : Nat → State
  | 0 => s
  | n + 1 => steppedTimes (stepped s) n

/-- Several instances, by position. -/
abbrev Instances := List State

/-- Instance k makes a step; there is no other effect (R34). -/
def stepInstance (c : Instances) (k : Nat) : Instances := c.modify k stepped

/-- The instances step in the order a schedule of positions gives. -/
def runSchedule (c : Instances) (order : List Nat) : Instances := order.foldl stepInstance c

end Sys2Proof.Machine
end

