-- ==== Sys2Proof/Machine/Timing.lean ====
section
/-! DEFINITION. What rule R143 says of time: the latency of a command depends on its opcode and on the number of
compressions it performs, and on nothing else. The state holds no time (R142) and no step reads a latency. -/

namespace Sys2Proof.Machine

/-- The number of compressions that performing a word takes in a state (R140, R143): an ABSORB that completes a block
performs one, FINISH one or two, every other command and every command that errs or is ignored none. -/
def compressCount (w : CmdWord) (s : State) : Nat :=
  match decode w with
  | .error _ => 0
  | .ok .nop => 0
  | .ok .init => 0
  | .ok (.absorb d) => if s.phase = .absorb ∧ s.len ≠ maxLen then (completedBlocks d s).length else 0
  | .ok .finish => if s.phase = .absorb then (finalBlocks s).length else 0
  | .ok .rdstat => 0
  | .ok (.rdw _) => 0
  | .ok (.rdb _) => 0
  | .ok (.rdh _) => 0
  | .ok (.rdl _) => 0

/-- The latency of performing a word in a state (R143), in the OPEN parameter of R6. -/
def latency (w : CmdWord) (s : State) : Nat := Config.commandLatency (opField w) (compressCount w s)

end Sys2Proof.Machine
end

