-- ==== Sys2Proof/Safety.lean ====
section
/-! DEFINITION. The terms the claims use: the invariant of the block, the message a state stands for, what a host can
observe, and a sequence of commands with its responses. -/

namespace Sys2Proof.Machine

/-- What holds of the registers between commands (R21, R25, R29, R32): err = NONE exactly outside ERROR, the buffer is
0x00 from BCNT on and all 0x00 in DONE, the round counter is at most 64, and BUSY = 0. -/
structure MachineInv (s : State) : Prop where
  err_iff : s.phase = .error ↔ s.err ≠ .noError
  buf_zero : ∀ j : Fin 64, (bcnt s).toNat ≤ j.val → s.buf[j] = 0
  done_buf : s.phase = .done → s.buf = Vector.replicate 64 0
  rc_le : s.engine.rc.toNat ≤ 64
  not_busy : s.engine.busy = false

/-- H and buf as a computation that has absorbed `m` and is open holds them (R32): the whole blocks of `m` are in H, the
rest of `m` is in buf, followed by 0x00. -/
def OpenOn (m : List Byte) (s : State) : Prop :=
  s.h = compressBlocks initialValues (blocks m) ∧ s.buf = blockAt m (m.length / 64)

/-- H and buf as a finished computation over `m` holds them (R32). -/
def FinishedOn (m : List Byte) (s : State) : Prop := s.h = hashState m ∧ s.buf = Vector.replicate 64 0

/-- R32: `s` is a state of the computation that has absorbed the message bytes `m`. In ERROR, H, L and buf hold what they
held when the error was raised. -/
def Tracks (m : List Byte) (s : State) : Prop :=
  s.len.toNat = m.length ∧
  match s.phase with
  | .absorb => s.err = .noError ∧ OpenOn m s
  | .done => s.err = .noError ∧ FinishedOn m s
  | .error => s.err ≠ .noError ∧ (OpenOn m s ∨ FinishedOn m s)

/-- The message absorbed since the last INIT or reset after a word is performed (R37): INIT starts anew, an ABSORB that is
performed without an error appends its byte, nothing else changes it. -/
def messageAfter (w : CmdWord) (s : State) (m : List Byte) : List Byte :=
  match decode w with
  | .error _ => m
  | .ok .nop => m
  | .ok .init => []
  | .ok (.absorb d) => if s.phase = .absorb ∧ s.len ≠ maxLen then m ++ [d] else m
  | .ok .finish => m
  | .ok .rdstat => m
  | .ok (.rdw _) => m
  | .ok (.rdb _) => m
  | .ok (.rdh _) => m
  | .ok (.rdl _) => m

/-- The five architectural registers agree (R33). -/
structure SameRegisters (s t : State) : Prop where
  h : s.h = t.h
  len : s.len = t.len
  buf : s.buf = t.buf
  phase : s.phase = t.phase
  err : s.err = t.err

/-- A state with the transient a..h, W and rc blotted out (R17, R18, R29). -/
def eraseTransient (s : State) : State := { s with engine := { Engine.reset with busy := s.engine.busy } }

/-- The words of a sequence performed one after another: the responses in order (R49, R54) and the last state. -/
def play (ws : List CmdWord) (s : State) : List Response × State :=
  match ws with
  | [] => ([], s)
  | w :: rest =>
    match perform w s with
    | .next t => (t.resp.toList ++ (play rest t).1, (play rest t).2)
    | .fault _ => ([], s)
    | .refused _ => ([], s)

/-- The words of the pseudo-command HASH (R64): INIT, one ABSORB per byte, FINISH. -/
def hashWords (m : List Byte) : List CmdWord := (expand (.hash m)).map encode

/-- The host's script that presents each word and takes its response (R138). -/
def dutifulScript (ws : List CmdWord) : List HostAction := ws.flatMap fun w => [.present w, .take]

/-- The mnemonics that take no operand, with their commands (R58, R63). -/
def plainMnemonics : List (List Char × Instr) :=
  [(['N', 'O', 'P'], .nop), (['I', 'N', 'I', 'T'], .init), (['F', 'I', 'N', 'I', 'S', 'H'], .finish),
   (['R', 'D', 'S', 'T', 'A', 'T'], .rdstat)]

/-- The mnemonics that take an operand, with the command each operand gives (R58, R63). -/
def operandMnemonics : List (List Char × (Nat → Instr)) :=
  [(['A', 'B', 'S', 'O', 'R', 'B'], fun n => .absorb (BitVec.ofNat 8 n)), (['R', 'D', 'W'], .rdw), (['R', 'D', 'B'], .rdb),
   (['R', 'D', 'H'], .rdh), (['R', 'D', 'L'], .rdl)]

/-- The unsigned integer that digits stand for, the most significant first (R11, R63). -/
def numeral (base : Nat) (digits : List Nat) : Nat := digits.foldl (fun v d => v * base + d) 0

/-- What may follow a command on its line: nothing, or a comment (R63). -/
def EndsCommand (tail : List Char) : Prop := tail = [] ∨ tail.head? = some ';'

/-- The line is the command `i`, and as a program its word (R63). -/
def AssemblesTo (line : List Char) (i : Instr) : Prop := assembleLine line = .ok [i] ∧ assemble [line] = .ok [encode i]

/-- R63 on the operand `n` of a line: 0 to 255 gives the command, a larger number is an assembly error. -/
def TakesOperand (line : List Char) (mk : Nat → Instr) (n : Nat) : Prop :=
  (n ≤ 255 → AssemblesTo line (mk n)) ∧
    (255 < n → assembleLine line = .error .operandTooLarge ∧ assemble [line] = .error .operandTooLarge)

/-- The indexed and plain reads (R46). -/
abbrev IsRead (i : Instr) : Prop :=
  match i with
  | .rdstat => True
  | .rdw _ => True
  | .rdb _ => True
  | .rdh _ => True
  | .rdl _ => True
  | .nop => False
  | .init => False
  | .absorb _ => False
  | .finish => False

end Sys2Proof.Machine
end

