-- ==== Sys2Proof/Certificates/Slice0/Obligations.lean ====
section
/-! DEFINITION. The statements about the model, from the numbered rules of spec/. -/

open Sys2Proof Sys2Proof.Machine

/-! ## The command encoding -/

/-- Every well-formed command, with every operand its encoding admits, is decoded from its own word (R56, R58, R59). -/
def Obligations.DecodeEncodeRoundTrip : Prop :=
  ∀ i : Instr, i.WellFormed → decode (encode i) = .ok i

/-- A word that decodes to a command is that command's word, so no bit of a legal word is dropped (R56, R58, R59). -/
def Obligations.EncodeDecodeRoundTrip : Prop :=
  ∀ (w : CmdWord) (i : Instr), decode w = .ok i → i.WellFormed ∧ encode i = w

/-- R58: the nine rows, which words are the command of a row, and that the opcode and the operand of a command are the fields
of its word. -/
def Obligations.OpcodeTableDecides : Prop :=
  opcodeTable =
      [⟨"NOP", 0x0000, 0xFFFF⟩, ⟨"INIT", 0x1000, 0xFFFF⟩, ⟨"ABSORB", 0x2000, 0xFF00⟩, ⟨"FINISH", 0x3000, 0xFFFF⟩,
       ⟨"RDSTAT", 0x4000, 0xFFFF⟩, ⟨"RDW", 0x5000, 0xFF00⟩, ⟨"RDB", 0x6000, 0xFF00⟩, ⟨"RDH", 0x7000, 0xFF00⟩,
       ⟨"RDL", 0x8000, 0xFF00⟩] ∧
    (∀ (w : CmdWord) (r : OpcodeRow), r ∈ opcodeTable → (w &&& r.mask = r.matchBits ↔ ∃ i, decode w = .ok i ∧ opcodeRow i = r)) ∧
    ∀ (w : CmdWord) (i : Instr), decode w = .ok i → opcode i = w.extractLsb' 12 4 ∧ operandByte i = w.extractLsb' 0 8

/-- The count of R60: 1284 words decode to a command and 64252 are illegal. R60 marks it as derived. -/
def Obligations.LegalWordCount : Prop :=
  {w : CmdWord | ∃ i, decode w = .ok i}.ncard = 1284 ∧ {w : CmdWord | ∃ e, decode w = .error e}.ncard = 64252

/-- R61 and R117: which words are illegal, and what performing one does in each phase. -/
def Obligations.IllegalWords : Prop :=
  (∀ w : CmdWord, (∃ e, decode w = .error e) ↔
      (9 ≤ (w.extractLsb' 12 4).toNat ∨ w.extractLsb' 8 4 ≠ 0 ∨
        (w.extractLsb' 12 4 ∈ ([0x0, 0x1, 0x3, 0x4] : List (BitVec 4)) ∧ w.extractLsb' 0 8 ≠ 0))) ∧
    ∀ (w : CmdWord) (e : IllegalWord) (s : State), decode w = .error e →
      (s.phase ≠ .error → perform w s = .next { s with phase := .error, err := .illegalCmd, resp := some ⟨false, 0⟩ }) ∧
      (s.phase = .error → perform w s = .next { s with resp := some ⟨false, 0⟩ })

/-- Words of spec/95_test_vectors.md L2.11, one for each family and the boundary of each check. -/
def Obligations.SampleWordsDecode : Prop :=
  decode 0x0000 = .ok .nop ∧ decode 0x1000 = .ok .init ∧ decode 0x20FF = .ok (.absorb 0xFF) ∧ decode 0x3000 = .ok .finish ∧
    decode 0x4000 = .ok .rdstat ∧ decode 0x5007 = .ok (.rdw 7) ∧ decode 0x601F = .ok (.rdb 31) ∧
    decode 0x703F = .ok (.rdh 63) ∧ decode 0x8001 = .ok (.rdl 1) ∧ decode 0x10FF = .error .nonzeroOperand ∧
    decode 0x5F07 = .error .reservedField ∧ decode 0x9000 = .error .reservedOpcode

/-! ## Word operations, scheduler and compressor -/

/-- R65: `rotr(x, n)[j] = x[(j + n) mod 32]`. -/
def Obligations.RotrIsCircular : Prop :=
  ∀ (x : Word) (n : Nat), 1 ≤ n → n ≤ 31 → ∀ j < 32, (rotr x n).getLsbD j = x.getLsbD ((j + n) % 32)

/-- R66, R68, R69, R70, bit by bit. -/
def Obligations.WordOpsBitwise : Prop :=
  (∀ (x : Word) (n : Nat), 1 ≤ n → n ≤ 31 → ∀ j < 32,
      (shr x n).getLsbD j = if j ≤ 31 - n then x.getLsbD (j + n) else false) ∧
    ∀ (x y : Word), ∀ j < 32,
      (wordAnd x y).getLsbD j = (x.getLsbD j && y.getLsbD j) ∧
      (wordXor x y).getLsbD j = (x.getLsbD j != y.getLsbD j) ∧
      (wordNot x).getLsbD j = !x.getLsbD j

/-- R67: a sum of words is the sum modulo 2^32 of the unsigned integers, and does not depend on the order of the terms. -/
def Obligations.SumIsModulo : Prop :=
  (∀ ts : List Word, (sumWords ts).toNat = (ts.map BitVec.toNat).sum % 2 ^ 32) ∧
    ∀ ts us : List Word, ts.Perm us → sumWords ts = sumWords us

/-- R79, R80, R85, R86, bit by bit: the four sigma functions with their rotation and shift amounts. -/
def Obligations.SigmaBits : Prop :=
  ∀ (x : Word), ∀ j < 32,
    (smallSigma0 x).getLsbD j =
      (x.getLsbD ((j + 7) % 32) ^^ x.getLsbD ((j + 18) % 32) ^^ (decide (j + 3 < 32) && x.getLsbD (j + 3))) ∧
    (smallSigma1 x).getLsbD j =
      (x.getLsbD ((j + 17) % 32) ^^ x.getLsbD ((j + 19) % 32) ^^ (decide (j + 10 < 32) && x.getLsbD (j + 10))) ∧
    (bigSigma1 x).getLsbD j = (x.getLsbD ((j + 6) % 32) ^^ x.getLsbD ((j + 11) % 32) ^^ x.getLsbD ((j + 25) % 32)) ∧
    (bigSigma0 x).getLsbD j = (x.getLsbD ((j + 2) % 32) ^^ x.getLsbD ((j + 13) % 32) ^^ x.getLsbD ((j + 22) % 32))

/-- R87 and R88, bit by bit: Ch chooses by e, Maj is 1 exactly when at least two of its operands are. -/
def Obligations.ChooseAndMajorityBits : Prop :=
  ∀ (x y z : Word), ∀ j < 32,
    (choose x y z).getLsbD j = (if x.getLsbD j then y.getLsbD j else z.getLsbD j) ∧
    ((majority x y z).getLsbD j = true ↔ 2 ≤ [x, y, z].countP fun v => v.getLsbD j)

/-- R81 and R38: the first 16 schedule words are the block read big-endian. -/
def Obligations.ScheduleLoadsBlock : Prop :=
  ∀ (b : Block) (t : Fin 16),
    (schedule b)[t.val] = b[4 * t.val] ++ b[4 * t.val + 1] ++ b[4 * t.val + 2] ++ b[4 * t.val + 3]

/-- R82: the recurrence of the schedule words 16 to 63. -/
def Obligations.ScheduleRecurrence : Prop :=
  ∀ (b : Block) (n : Fin 48),
    (schedule b)[n.val + 16] =
      (schedule b)[n.val] + smallSigma0 (schedule b)[n.val + 1] + (schedule b)[n.val + 9] + smallSigma1 (schedule b)[n.val + 14]

/-- R84: the implementation that holds only the 16 most recent words gives every round the word Schedule(B) gives it. R84
marks this as derived. -/
def Obligations.WindowSchedulerAgrees : Prop :=
  ∀ (b : Block) (i : Fin 64), windowWord b i = (schedule b)[i.val]

/-- R89, R90 and R91: one round, all eight assignments from the values before it. -/
def Obligations.RoundEquations : Prop :=
  ∀ (i : Fin 64) (w : Word) (v : WorkingVars),
    let t1 := v.h + bigSigma1 v.e + choose v.e v.f v.g + roundConstants[i.val] + w
    let t2 := bigSigma0 v.a + majority v.a v.b v.c
    temp1 v roundConstants[i.val] w = t1 ∧ temp2 v = t2 ∧
      roundStep i w v = { a := t1 + t2, b := v.a, c := v.b, d := v.c, e := v.d + t1, f := v.e, g := v.f, h := v.g }

/-- R92: a compression is 64 rounds in ascending order from a..h = H, and a final addition to the H of before the block. -/
def Obligations.CompressIsSixtyFourRounds : Prop :=
  ∀ (h : HashState) (b : Block), ∃ v : Nat → WorkingVars,
    v 0 = ⟨h[0], h[1], h[2], h[3], h[4], h[5], h[6], h[7]⟩ ∧
      (∀ i : Fin 64, v (i.val + 1) = roundStep i (schedule b)[i.val] (v i.val)) ∧
      compress h b =
        #v[h[0] + (v 64).a, h[1] + (v 64).b, h[2] + (v 64).c, h[3] + (v 64).d,
           h[4] + (v 64).e, h[5] + (v 64).f, h[6] + (v 64).g, h[7] + (v 64).h]

/-- R95: K[i] is the first 32 bits of the fractional part of the cube root of p_i, `⌊(p_i · 2^96)^(1/3)⌋ mod 2^32`. -/
def Obligations.RoundConstantsFromCubeRoots : Prop :=
  ∀ i : Fin 64, ∃ r : Nat,
    r ^ 3 ≤ romPrimes[i.val] * 2 ^ 96 ∧ romPrimes[i.val] * 2 ^ 96 < (r + 1) ^ 3 ∧ roundConstants[i.val].toNat = r % 2 ^ 32

/-- R96: the 64 primes are the first 64 primes, in order. -/
def Obligations.RomPrimesAreTheFirst : Prop :=
  romPrimes.toList.Pairwise (· < ·) ∧ ∀ n : Nat, n ∈ romPrimes.toList ↔ n.Prime ∧ n ≤ 311

/-- The IV as the document lists it (R97). The second clause, the first 32 bits of the fractional parts of the square roots of
the first eight primes, is the informative audit that R97 marks as general knowledge: it adds nothing normative. -/
def Obligations.InitialValuesFromSquareRoots : Prop :=
  initialValues =
      #v[0x6a09e667, 0xbb67ae85, 0x3c6ef372, 0xa54ff53a, 0x510e527f, 0x9b05688c, 0x1f83d9ab, 0x5be0cd19] ∧
    ∀ k : Fin 8, ∃ r : Nat,
      r ^ 2 ≤ romPrimes[k.val] * 2 ^ 64 ∧ romPrimes[k.val] * 2 ^ 64 < (r + 1) ^ 2 ∧ initialValues[k.val].toNat = r % 2 ^ 32

/-! ## Padding and formatting -/

/-- R71: the padded message of a message in R71's range, with the least number of zero bytes that brings the length to 56
modulo 64, and the bit length whole in its field. -/
def Obligations.PadUsesLeastZeroFill : Prop :=
  ∀ m : List Byte, m.length ≤ 2 ^ 61 - 1 → ∃ (k : Nat) (lb : BitVec 64),
    pad m = m ++ [0x80] ++ List.replicate k 0 ++ (be64Bytes lb).toList ∧
      lb.toNat = 8 * m.length ∧ k ≤ 63 ∧ (m.length + 1 + k) % 64 = 56 ∧ ∀ k' < k, (m.length + 1 + k') % 64 ≠ 56

/-- The five properties R73 derives of Pad(M): whole blocks, 9 to 72 bytes of padding, the bit length in the last 8 bytes,
the message and 0x80 in front, and the number of blocks. -/
def Obligations.PadProperties : Prop :=
  ∀ m : List Byte, m.length ≤ 2 ^ 61 - 1 →
    64 ∣ (pad m).length ∧
    m.length + 9 ≤ (pad m).length ∧ (pad m).length ≤ m.length + 72 ∧
    (((pad m).drop ((pad m).length - 8)).foldl (fun n b => n * 256 + b.toNat) 0) = 8 * m.length ∧
    (pad m).take m.length = m ∧ (pad m)[m.length]? = some 0x80 ∧
    (blocks (pad m)).length = (m.length + 8) / 64 + 1 ∧ (blocks (pad m)).length = (pad m).length / 64

/-- R74: a padded message of 64·N bytes is cut into N blocks, in order, and nothing of it is lost. -/
def Obligations.BlocksCutTheMessage : Prop :=
  ∀ (p : List Byte) (n : Nat), p.length = 64 * n →
    (blocks p).length = n ∧ ((blocks p).map Vector.toList).flatten = p ∧
      ∀ k < n, ((blocks p)[k]?).map Vector.toList = some ((p.drop (64 * k)).take 64)

/-- The table of R78, by residue of the message length: the number of zero bytes, of padding bytes, and of blocks that
FINISH compresses. R78 marks it as derived. Beyond 2^61 − 1 bytes the first three clauses speak of the model's own extension of
`pad` (notes/assumptions/13.md). -/
def Obligations.PaddingByResidue : Prop :=
  ∀ m : List Byte,
    (m.length % 64 ≤ 55 → padZeros m.length = 55 - m.length % 64) ∧
    (56 ≤ m.length % 64 → padZeros m.length = 119 - m.length % 64) ∧
    (pad m).length = m.length + (1 + padZeros m.length + 8) ∧
    ∀ s : State, s.phase = .absorb → s.len.toNat = m.length →
      compressCount (encode .finish) s = if m.length % 64 ≤ 55 then 1 else 2

/-- R77: absorbing a message byte by byte from L = 0 and finishing passes to Compress exactly the blocks of the padded
message, each once, in order. R77 marks this as derived. -/
def Obligations.StreamingPadsTheMessage : Prop :=
  ∀ (m : List Byte) (s : State), m.length ≤ 2 ^ 61 - 1 → s.len = 0 → s.buf = Vector.replicate 64 0 →
    passedBlocks m s = blocks (pad m)

/-- R98 and R40: the digest is the eight words, each most significant byte first. -/
def Obligations.DigestIsBigEndianWords : Prop :=
  ∀ h : HashState,
    (formatDigest h).toList = (h.toList.map fun x => (be32Bytes x).toList).flatten ∧
      ∀ (k : Fin 8) (j : Fin 4), (formatDigest h)[4 * k.val + j.val] = h[k.val].extractLsb' (24 - 8 * j.val) 8

/-- R99 and R100: two lowercase characters a byte, high nibble first. -/
def Obligations.HexDigestCharacters : Prop :=
  (∀ v : BitVec 4, (v.toNat < 10 → (hexDigit v).toNat = 0x30 + v.toNat) ∧ (10 ≤ v.toNat → (hexDigit v).toNat = 0x57 + v.toNat)) ∧
    ∀ (h : HashState) (m : Fin 32),
      (hexDigest h)[2 * m.val] = hexDigit ((formatDigest h)[m.val].extractLsb' 4 4) ∧
        (hexDigest h)[2 * m.val + 1] = hexDigit ((formatDigest h)[m.val].extractLsb' 0 4)

/-- R101: the digest is recovered from its hexadecimal form by reading each character pair as one byte. R101 marks this as
derived. -/
def Obligations.HexDigestReadsBack : Prop :=
  ∀ h : HashState, readHexDigest (hexDigest h) = formatDigest h

/-! ## The commands -/

/-- R108: NOP responds (1, 0) in every phase and changes nothing else. -/
def Obligations.NopOnlyResponds : Prop :=
  encode .nop = 0x0000 ∧ ∀ s : State, exec .nop s = .next { s with resp := some ⟨true, 0⟩ }

/-- R109: INIT puts the five registers in their initial values in every phase and responds (1, 0). -/
def Obligations.InitBeginsComputation : Prop :=
  encode .init = 0x1000 ∧
    ∀ s : State, ∃ t, exec .init s = .next t ∧
      t = { s with h := initialValues, len := 0, buf := Vector.replicate 64 0, phase := .absorb, err := .noError, resp := some ⟨true, 0⟩ } ∧
      status t = 0 ∧ SameRegisters t State.reset ∧ exec .init t = .next t

/-- R110 and R75: ABSORB appends its byte to the buffer, compresses a completed block at once, and errs in DONE and at the
length limit; in ERROR it is ignored (R107). -/
def Obligations.AbsorbTakesInOneByte : Prop :=
  ∀ (d : Byte) (s : State),
    encode (.absorb d) = 0x2000 ||| d.setWidth 16 ∧
    (s.phase = .absorb → s.len.toNat ≠ 2 ^ 61 - 1 → (hn : s.len.toNat % 64 < 63) →
      exec (.absorb d) s =
        .next { s with buf := s.buf.set (s.len.toNat % 64) d, len := s.len + 1, resp := some ⟨true, 0⟩ }) ∧
    (s.phase = .absorb → s.len.toNat ≠ 2 ^ 61 - 1 → s.len.toNat % 64 = 63 →
      ∃ t, exec (.absorb d) s = .next t ∧
        t.h = compress s.h (s.buf.set 63 d) ∧ t.buf = Vector.replicate 64 0 ∧ t.len = s.len + 1 ∧
        t.phase = .absorb ∧ t.err = s.err ∧ t.engine.busy = false ∧ t.cmd = s.cmd ∧ t.resp = some ⟨true, 0⟩ ∧ t.host = s.host) ∧
    (s.phase = .absorb → s.len.toNat = 2 ^ 61 - 1 →
      exec (.absorb d) s = .next { s with phase := .error, err := .lenOverflow, resp := some ⟨false, 0⟩ }) ∧
    (s.phase = .done →
      exec (.absorb d) s = .next { s with phase := .error, err := .sequence, resp := some ⟨false, 0⟩ }) ∧
    (s.phase = .error → exec (.absorb d) s = .next { s with resp := some ⟨false, 0⟩ })

/-- R111 and R76: FINISH writes 0x80 at BCNT, compresses one block with the length field when BCNT ≤ 55 and otherwise that
block and a block of 56 zero bytes and the length field, and enters DONE; it errs in DONE and is ignored in ERROR. -/
def Obligations.FinishPadsAndCompresses : Prop :=
  encode .finish = 0x3000 ∧
  ∀ (s : State),
    let lb : BitVec 64 := BitVec.ofNat 64 (8 * s.len.toNat)
    (s.phase = .absorb → s.len.toNat % 64 ≤ 55 → ∃ (t : State) (b : Block), exec .finish s = .next t ∧
      (∀ j : Fin 56, b[j.val] = if j.val = s.len.toNat % 64 then 0x80 else s.buf[j.val]) ∧
      (∀ j : Fin 8, b[56 + j.val] = (be64Bytes lb)[j.val]) ∧
      t.h = compress s.h b ∧ t.buf = Vector.replicate 64 0 ∧ t.len = s.len ∧ t.phase = .done ∧ t.err = s.err ∧
      t.engine.busy = false ∧ t.cmd = s.cmd ∧ t.resp = some ⟨true, 0⟩ ∧ t.host = s.host) ∧
    (s.phase = .absorb → 56 ≤ s.len.toNat % 64 → ∃ (t : State) (b last : Block), exec .finish s = .next t ∧
      (∀ j : Fin 64, b[j.val] = if j.val = s.len.toNat % 64 then 0x80 else s.buf[j.val]) ∧
      (∀ j : Fin 56, last[j.val] = 0) ∧ (∀ j : Fin 8, last[56 + j.val] = (be64Bytes lb)[j.val]) ∧
      t.h = compress (compress s.h b) last ∧ t.buf = Vector.replicate 64 0 ∧ t.len = s.len ∧ t.phase = .done ∧ t.err = s.err ∧
      t.engine.busy = false ∧ t.cmd = s.cmd ∧ t.resp = some ⟨true, 0⟩ ∧ t.host = s.host) ∧
    (s.phase = .done → exec .finish s = .next { s with phase := .error, err := .sequence, resp := some ⟨false, 0⟩ }) ∧
    (s.phase = .error → exec .finish s = .next { s with resp := some ⟨false, 0⟩ })

/-- R112, R24, R25 and R26: RDSTAT returns STATUS in every phase, field by field, and changes nothing else. -/
def Obligations.RdstatReturnsStatus : Prop :=
  encode .rdstat = 0x4000 ∧
  ∀ s : State, ∃ st : Word, exec .rdstat s = .next { s with resp := some ⟨true, st⟩ } ∧
    st = ((s.len.extractLsb' 0 6).setWidth 32 <<< 8 ||| s.err.code.setWidth 32 <<< 4 ||| s.phase.code.setWidth 32) ∧
    st.extractLsb' 0 2 = (match s.phase with | .absorb => 0 | .done => 1 | .error => 2) ∧
    st.extractLsb' 2 2 = 0 ∧
    st.extractLsb' 4 4 =
      (match s.err with | .noError => 0 | .lenOverflow => 1 | .sequence => 2 | .illegalCmd => 3 | .badIndex => 4) ∧
    st.extractLsb' 8 6 = s.len.extractLsb' 0 6 ∧
    st.extractLsb' 14 18 = 0

/-- R113: RDW returns H[i] in ABSORB and DONE, raises BAD_INDEX for i above 7, and is ignored in ERROR. -/
def Obligations.RdwReturnsStateWord : Prop :=
  ∀ (i : Nat) (s : State),
    (i < 256 → encode (.rdw i) = 0x5000 ||| BitVec.ofNat 16 i) ∧
    (s.phase ≠ .error → (hi : i ≤ 7) → exec (.rdw i) s = .next { s with resp := some ⟨true, s.h[i]⟩ }) ∧
    (s.phase ≠ .error → 7 < i →
      exec (.rdw i) s = .next { s with phase := .error, err := .badIndex, resp := some ⟨false, 0⟩ }) ∧
    (s.phase = .error → exec (.rdw i) s = .next { s with resp := some ⟨false, 0⟩ })

/-- R114: RDB returns digest byte m in DONE, raises SEQUENCE in ABSORB whatever the index, BAD_INDEX in DONE for m above 31,
and is ignored in ERROR. -/
def Obligations.RdbReturnsDigestByte : Prop :=
  ∀ (m : Nat) (s : State),
    (m < 256 → encode (.rdb m) = 0x6000 ||| BitVec.ofNat 16 m) ∧
    (s.phase = .done → (hm : m ≤ 31) →
      exec (.rdb m) s = .next { s with resp := some ⟨true, (formatDigest s.h)[m].setWidth 32⟩ }) ∧
    (s.phase = .absorb →
      exec (.rdb m) s = .next { s with phase := .error, err := .sequence, resp := some ⟨false, 0⟩ }) ∧
    (s.phase = .done → 31 < m →
      exec (.rdb m) s = .next { s with phase := .error, err := .badIndex, resp := some ⟨false, 0⟩ }) ∧
    (s.phase = .error → exec (.rdb m) s = .next { s with resp := some ⟨false, 0⟩ })

/-- R115: RDH returns hexadecimal character c in DONE, raises SEQUENCE in ABSORB whatever the index, BAD_INDEX in DONE for c
above 63, and is ignored in ERROR. -/
def Obligations.RdhReturnsHexCharacter : Prop :=
  ∀ (c : Nat) (s : State),
    (c < 256 → encode (.rdh c) = 0x7000 ||| BitVec.ofNat 16 c) ∧
    (s.phase = .done → (hc : c ≤ 63) → ∃ ch : Byte, ch = (hexDigest s.h)[c] ∧
      exec (.rdh c) s = .next { s with resp := some ⟨true, ch.setWidth 32⟩ } ∧
      ((0x30 ≤ ch.toNat ∧ ch.toNat ≤ 0x39) ∨ (0x61 ≤ ch.toNat ∧ ch.toNat ≤ 0x66))) ∧
    (s.phase = .absorb →
      exec (.rdh c) s = .next { s with phase := .error, err := .sequence, resp := some ⟨false, 0⟩ }) ∧
    (s.phase = .done → 63 < c →
      exec (.rdh c) s = .next { s with phase := .error, err := .badIndex, resp := some ⟨false, 0⟩ }) ∧
    (s.phase = .error → exec (.rdh c) s = .next { s with resp := some ⟨false, 0⟩ })

/-- R116 and R27: RDL returns the low or the high half of the bit length 8·L in ABSORB and DONE, raises BAD_INDEX for i above
1, and is ignored in ERROR. -/
def Obligations.RdlReturnsLengthHalf : Prop :=
  ∀ (i : Nat) (s : State),
    (i < 256 → encode (.rdl i) = 0x8000 ||| BitVec.ofNat 16 i) ∧
    (s.phase ≠ .error →
      exec (.rdl 0) s = .next { s with resp := some ⟨true, BitVec.ofNat 32 (8 * s.len.toNat % 2 ^ 32)⟩ } ∧
      exec (.rdl 1) s = .next { s with resp := some ⟨true, BitVec.ofNat 32 (8 * s.len.toNat / 2 ^ 32)⟩ } ∧
      8 * s.len.toNat < 2 ^ 64) ∧
    (s.phase ≠ .error → 1 < i →
      exec (.rdl i) s = .next { s with phase := .error, err := .badIndex, resp := some ⟨false, 0⟩ }) ∧
    (s.phase = .error → exec (.rdl i) s = .next { s with resp := some ⟨false, 0⟩ })

/-! ## Errors and phases -/

/-- R121: an error leaves H, L, buf and everything else as it was; only phase, err and the response are written. -/
def Obligations.ErrorEntryIsPrecise : Prop :=
  ∀ (w : CmdWord) (s t : State), perform w s = .next t → s.phase ≠ .error → t.phase = .error →
    t.err ≠ .noError ∧ t = { s with phase := .error, err := t.err, resp := some ⟨false, 0⟩ }

/-- R122, with the causes of R118: which error a word reports, the first that applies in the order of R122. Outside ERROR a
word that reports none leaves no error behind; in ERROR no word raises one, and only INIT writes err. -/
def Obligations.ErrorPriority : Prop :=
  (∀ (w : CmdWord) (s : State), s.phase = .error → ∃ t, perform w s = .next t ∧
    t.err = if decode w = .ok .init then .noError else s.err) ∧
  ∀ (w : CmdWord) (s : State), s.phase ≠ .error → s.err = .noError → ∃ t, perform w s = .next t ∧
    (t.phase = .error ↔ t.err ≠ .noError) ∧
    t.err =
      match decode w with
      | .error _ => .illegalCmd
      | .ok .nop => .noError
      | .ok .init => .noError
      | .ok (.absorb _) =>
        if s.phase = .done then .sequence else if s.len.toNat = 2 ^ 61 - 1 then .lenOverflow else .noError
      | .ok .finish => if s.phase = .done then .sequence else .noError
      | .ok .rdstat => .noError
      | .ok (.rdw i) => if 7 < i then .badIndex else .noError
      | .ok (.rdb m) => if s.phase = .absorb then .sequence else if 31 < m then .badIndex else .noError
      | .ok (.rdh c) => if s.phase = .absorb then .sequence else if 63 < c then .badIndex else .noError
      | .ok (.rdl i) => if 1 < i then .badIndex else .noError

/-- R107: in ERROR every word but NOP, INIT and RDSTAT, illegal words included, changes nothing but the response (0, 0). -/
def Obligations.IgnoredInError : Prop :=
  ∀ (w : CmdWord) (s : State), s.phase = .error →
    decode w ≠ .ok .nop → decode w ≠ .ok .init → decode w ≠ .ok .rdstat →
    perform w s = .next { s with resp := some ⟨false, 0⟩ }

/-- R123: only INIT and reset leave phase ERROR, and both start a new computation from IV. -/
def Obligations.OnlyInitAndResetLeaveError : Prop :=
  ∀ s t : State, step s = .next t → s.phase = .error → t.phase ≠ .error →
    SameRegisters t State.reset ∧
      (acceptable s = some (encode .init) ∨ s.host.script.head? = some .reset ∨ s.host.script.head? = some .resetDuring)

/-- R46: a read that succeeds changes no register, and repeating it returns the same value; a read that raises an error has
the error's effect and no other. -/
def Obligations.ReadsHaveNoSideEffect : Prop :=
  ∀ (i : Instr) (s t : State) (ok : Bool) (data : Word), IsRead i → exec i s = .next t → t.resp = some ⟨ok, data⟩ →
    (ok = true → t = { s with resp := some ⟨true, data⟩ } ∧ exec i t = .next t) ∧
    (ok = false → s.phase ≠ .error →
      (t.err = .sequence ∨ t.err = .badIndex) ∧ t = { s with phase := .error, err := t.err, resp := some ⟨false, 0⟩ })

/-- R42: in DONE, RDW k returns the four bytes that RDB 4k .. 4k+3 return, the first most significant. R42 marks this as
derived. -/
def Obligations.WordAndByteReadsAgree : Prop :=
  ∀ (s : State) (k : Fin 8), s.phase = .done → ∃ b0 b1 b2 b3 : Word,
    exec (.rdb (4 * k.val)) s = .next { s with resp := some ⟨true, b0⟩ } ∧
    exec (.rdb (4 * k.val + 1)) s = .next { s with resp := some ⟨true, b1⟩ } ∧
    exec (.rdb (4 * k.val + 2)) s = .next { s with resp := some ⟨true, b2⟩ } ∧
    exec (.rdb (4 * k.val + 3)) s = .next { s with resp := some ⟨true, b3⟩ } ∧
    exec (.rdw k.val) s =
      .next { s with resp := some ⟨true, BitVec.ofNat 32 (b0.toNat * 2 ^ 24 + b1.toNat * 2 ^ 16 + b2.toNat * 2 ^ 8 + b3.toNat)⟩ } ∧
    b0.toNat < 256 ∧ b1.toNat < 256 ∧ b2.toNat < 256 ∧ b3.toNat < 256

/-! ## Whole computations -/

/-- R32 and R37: between commands the registers are those of the computation over the bytes absorbed so far, whichever word
is performed. R32 marks this as derived. -/
def Obligations.RegistersTrackTheMessage : Prop :=
  ∀ (w : CmdWord) (s : State) (m : List Byte), Tracks m s →
    ∃ t, perform w s = .next t ∧ Tracks (messageAfter w s m) t

/-- The state after reset is that of a computation with no byte absorbed (R32, R133). -/
def Obligations.ResetTracksTheEmptyMessage : Prop :=
  Tracks [] State.reset

/-- R104: from any state, INIT, one ABSORB a byte and FINISH raise no error, respond (1, 0) to every command and end in DONE,
where RDB and RDH return the SHA-256 of the message. R104 marks this as derived. -/
def Obligations.CommandSequenceComputesSha256 : Prop :=
  ∀ (s : State) (m : List Byte), m.length ≤ 2 ^ 61 - 1 →
    ∃ (t : State) (digest : Vector Byte 32) (hex : Vector Byte 64),
      play (hashWords m) s = (List.replicate (m.length + 2) ⟨true, 0⟩, t) ∧
      t.phase = .done ∧ t.err = .noError ∧ t.len.toNat = m.length ∧
      sha256 m = some digest ∧ sha256Hex m = some hex ∧ formatDigest t.h = digest ∧
      (∀ k : Fin 32, exec (.rdb k.val) t = .next { t with resp := some ⟨true, digest[k.val].setWidth 32⟩ }) ∧
      ∀ c : Fin 64, exec (.rdh c.val) t = .next { t with resp := some ⟨true, hex[c.val].setWidth 32⟩ }

/-- A host that presents each word and takes its response gets exactly one response a word, in order, and leaves the registers
the sequence of words gives (R49, R54, R138). The order in which engine and host act is the model's choice
(notes/assumptions/1.md). -/
def Obligations.PortsDeliverEveryResponse : Prop :=
  ∀ (ws : List CmdWord) (s : State), s.cmd = none → s.resp = none → s.engine.busy = false →
    s.host.script = dutifulScript ws →
    ∃ t, core.run (3 * ws.length) s = .next t ∧ SameRegisters t (play ws s).2 ∧
      t.host.script = [] ∧ t.host.taken = s.host.taken ++ (play ws s).1 ∧ (play ws s).1.length = ws.length

/-! ## The machine -/

/-- R133: the values after reset. -/
def Obligations.ResetValues : Prop :=
  State.reset.h = #v[0x6a09e667, 0xbb67ae85, 0x3c6ef372, 0xa54ff53a, 0x510e527f, 0x9b05688c, 0x1f83d9ab, 0x5be0cd19] ∧
    State.reset.len = 0 ∧ (∀ j : Fin 64, State.reset.buf[j.val] = 0) ∧ State.reset.phase = .absorb ∧
    State.reset.err = .noError ∧ status State.reset = 0 ∧ bitLength State.reset = 0 ∧
    State.reset.engine.busy = false ∧ State.reset.resp = none ∧
    ∀ s : State, acceptable s = none → s.host.script.head? = some .reset →
      ∃ t, step s = .next t ∧ SameRegisters t State.reset ∧ t.engine.busy = false ∧ t.resp = none

/-- Reset asserted while a command is in progress abandons it: the word is consumed, no response is given, and the block is in its
reset state (R134). The last two clauses, on the host, are the model's choice: reset leaves what the host has taken
(notes/assumptions/3.md), and asserting it uses up one entry of the host's script (notes/assumptions/1.md). -/
def Obligations.ResetCutsTheCommandShort : Prop :=
  ∀ (s : State) (w : CmdWord), acceptable s = some w → s.host.script.head? = some .resetDuring →
    ∃ t, step s = .next t ∧ SameRegisters t State.reset ∧ t.engine.busy = false ∧ t.cmd = none ∧ t.resp = none ∧
      t.host.taken = s.host.taken ∧ t.host.script = s.host.script.tail

/-- A step accepts the presented word and performs the command it decodes to, and an illegal word as R117 says (R105). That the
very next step does so, before the host acts, is the model's choice (notes/assumptions/1.md), and that the whole command is one
step is deduced (notes/assumptions/5.md). -/
def Obligations.StepRunsTheDecodedCommand : Prop :=
  ∀ (s : State) (w : CmdWord), s.cmd = some w → s.resp = none → s.engine.busy = false →
    s.host.script.head? ≠ some .resetDuring →
    (∀ i, decode w = .ok i → step s = exec i { s with cmd := none }) ∧
    ∀ e, decode w = .error e → step s = execIllegal { s with cmd := none }

/-- The invariant holds after reset (R21, R25, R29, R133). -/
def Obligations.ResetSatisfiesInv : Prop :=
  MachineInv State.reset

/-- The invariant is kept by every step: err = NONE exactly outside ERROR (R25), the buffer is 0x00 from BCNT on (R21) and
everywhere in DONE (R32), rc ≤ 64 and BUSY = 0 (R29). -/
def Obligations.StepKeepsInv : Prop :=
  ∀ s t : State, MachineInv s → step s = .next t → MachineInv t

/-- An accepted command that reset does not cut short is performed whole in its own step, which consumes the word and leaves the
response (R139, R54, R55). That every step answers a next state is deduced (notes/assumptions/7.md), that a word is accepted as
soon as it can be is the model's choice (notes/assumptions/1.md), and that a command is one step is deduced
(notes/assumptions/5.md). -/
def Obligations.EveryCommandCompletes : Prop :=
  ∀ s : State, ∃ t, step s = .next t ∧
    ∀ w, acceptable s = some w → s.host.script.head? ≠ some .resetDuring →
      step s = perform w (consumeWord s) ∧ t.cmd = none ∧ t.resp.isSome = true ∧ t.host = s.host

/-- While no command is accepted, only reset changes a register (R132), and a word presented while the previous response is
unread or BUSY = 1 waits unconsumed (R138, R140). That the word also stays through a reset is deduced (notes/assumptions/3.md),
and that the engine stays as it is with BUSY = 1 speaks of states that no run reaches (notes/assumptions/5.md). -/
def Obligations.PresentedWordWaits : Prop :=
  (∀ s : State, acceptable s = none → s.host.script.head? ≠ some .reset → s.host.script.head? ≠ some .resetDuring →
    ∃ t, step s = .next t ∧ SameRegisters t s ∧ t.engine = s.engine) ∧
  (∀ (s : State) (w : CmdWord), s.cmd = some w → (s.resp.isSome = true ∨ s.engine.busy = true) →
    s.host.script.head? ≠ some .reset → s.host.script.head? ≠ some .resetDuring →
    acceptable s = none ∧ ∃ t, step s = .next t ∧ t.cmd = some w) ∧
  ∀ (s : State) (w : CmdWord), s.cmd = some w → (s.resp.isSome = true ∨ s.engine.busy = true) →
    (s.host.script.head? = some .reset ∨ s.host.script.head? = some .resetDuring) →
    ∃ t, step s = .next t ∧ t.cmd = some w ∧ SameRegisters t State.reset

/-- R33: a..h, W and rc are never read: two states that differ only there take steps to states that differ only there, with
the same registers, ports and responses. -/
def Obligations.TransientStateUnobservable : Prop :=
  ∀ s t : State, eraseTransient s = eraseTransient t →
    ∃ s' t', step s = .next s' ∧ step t = .next t' ∧ eraseTransient s' = eraseTransient t'

/-- R34 and R130: instances do not influence each other. In whatever order they step, each reaches the state it reaches alone;
and an instance whose host presents the commands of one message has hashed that message after its own steps, whatever the other
instances hold and do in between. That instances share nothing is how the model builds them (notes/assumptions/10.md), and the
number of steps a command takes with its host rests on the model's choice of notes/assumptions/1.md. -/
def Obligations.InstancesAreIndependent : Prop :=
  (∀ (all : Instances) (order : List Nat) (j : Nat),
    (runSchedule all order)[j]? = (all[j]?).map fun s => steppedTimes s (order.count j)) ∧
  ∀ (all : Instances) (order : List Nat) (j : Nat) (s : State) (m : List Byte),
    all[j]? = some s → s.cmd = none → s.resp = none → s.engine.busy = false → s.host.script = dutifulScript (hashWords m) →
    m.length ≤ 2 ^ 61 - 1 → 3 * (m.length + 2) ≤ order.count j →
    ∃ t : State, (runSchedule all order)[j]? = some t ∧ t.phase = .done ∧ t.err = .noError ∧
      sha256 m = some (formatDigest t.h) ∧ t.host.taken = s.host.taken ++ List.replicate (m.length + 2) ⟨true, 0⟩

/-- What the latency may depend on (R143). Performing a word passes as many blocks to Compress as `compressCount` says, and with
none the engine is untouched; the count is at most 2 and the same for all data bytes, H and buffers. R143 says that it depends on
L only; that it is 0 for a word that errs or is ignored, and so depends on the phase too, is deduced, and the latency itself is a
free value (both notes/assumptions/6.md). That between commands the engine keeps the schedule and the count of the last compression,
and everything when there was none, is the model's choice (notes/assumptions/2.md): the spec leaves these values open. -/
def Obligations.LatencyIgnoresData : Prop :=
  (∀ (w : CmdWord) (s : State), ∃ (t : State) (bs : List Block), perform w s = .next t ∧ bs.length = compressCount w s ∧
      t.h = (if decode w = .ok .init then initialValues else compressBlocks s.h bs) ∧
      (bs = [] → t.engine = s.engine) ∧
      ∀ b, bs.getLast? = some b → t.engine.w = schedule b ∧ t.engine.rc = 64 ∧ t.engine.busy = false) ∧
  (∀ (w : CmdWord) (s : State), compressCount w s ≤ 2 ∧ latency w s = Config.commandLatency (w.extractLsb' 12 4) (compressCount w s)) ∧
    ∀ (s t : State), s.phase = t.phase → s.len = t.len →
      (∀ w, compressCount w s = compressCount w t ∧ latency w s = latency w t) ∧
      ∀ d d' : Byte, compressCount (encode (.absorb d)) s = compressCount (encode (.absorb d')) t ∧
        latency (encode (.absorb d)) s = latency (encode (.absorb d')) t

/-- R63: a line of each command without operand, of each command with a number in decimal or in hexadecimal, and of ABSORB with a
quoted character assembles to that command, with or without a comment; an operand above 255 is an error. What assembles is a
well-formed command, and a program is the words of its lines in order. Which letters and blanks a line may have where R63 is
silent is the model's choice (notes/assumptions/9.md). -/
def Obligations.AssembledWordsAreCommands : Prop :=
  (∀ (line : List Char) (is : List Instr), assembleLine line = .ok is → ∀ i ∈ is, i.WellFormed) ∧
  (∀ (lines : List (List Char)) (ws : List CmdWord), assemble lines = .ok ws → ∀ w ∈ ws, ∃ i, decode w = .ok i) ∧
  (∀ p ∈ plainMnemonics, ∀ tail, EndsCommand tail → AssemblesTo (p.1 ++ tail) p.2) ∧
  (∀ p ∈ operandMnemonics, ∀ (digits : List Nat) (tail : List Char), digits ≠ [] → EndsCommand tail →
    ((∀ d ∈ digits, d < 10) →
      TakesOperand (p.1 ++ [' '] ++ digits.map Nat.digitChar ++ tail) p.2 (numeral 10 digits)) ∧
    ((∀ d ∈ digits, d < 16) →
      TakesOperand (p.1 ++ [' ', '0', 'x'] ++ digits.map Nat.digitChar ++ tail) p.2 (numeral 16 digits))) ∧
  (∀ (c : Char) (tail : List Char), c.toNat < 128 → EndsCommand tail →
    AssemblesTo (['A', 'B', 'S', 'O', 'R', 'B', ' ', '\'', c, '\''] ++ tail) (.absorb (BitVec.ofNat 8 c.toNat))) ∧
  ∀ (ls ls' : List (List Char)) (ws ws' : List CmdWord), assemble ls = .ok ws → assemble ls' = .ok ws' →
    assemble (ls ++ ls') = .ok (ws ++ ws')

/-- R64: the expansions of the pseudo-commands. -/
def Obligations.PseudoCommandExpansions : Prop :=
  (∀ bytes : List Byte,
      expand (.absorbs bytes) = bytes.map Instr.absorb ∧ expand (.absorbb bytes) = bytes.map Instr.absorb ∧
      expand (.hash bytes) = [.init] ++ bytes.map Instr.absorb ++ [.finish]) ∧
    (expand .digest).length = 32 ∧ (∀ k < 32, (expand .digest)[k]? = some (.rdb k)) ∧
    (expand .hexdigest).length = 64 ∧ (∀ k < 64, (expand .hexdigest)[k]? = some (.rdh k)) ∧
    (expand .state).length = 8 ∧ (∀ k < 8, (expand .state)[k]? = some (.rdw k)) ∧
    expand .length = [.rdl 0, .rdl 1]

/-- At most one row of the opcode table matches any word. R58 marks this as derived from its match values and masks. -/
def Obligations.OpcodeRowsAreDisjoint : Prop :=
  ∀ (w : CmdWord) (r r' : OpcodeRow), r ∈ opcodeTable → r' ∈ opcodeTable →
    w &&& r.mask = r.matchBits → w &&& r'.mask = r'.matchBits → r = r'

/-- Character c of the hexadecimal digest is nibble c of the state words. R100 marks this as derived. -/
def Obligations.HexCharacterIsNibble : Prop :=
  ∀ (h : HashState) (c : Fin 64), (hexDigest h)[c.val] = hexDigit (h[c.val / 8].extractLsb' (28 - 4 * (c.val % 8)) 4)
end

