-- ==== Sys2Proof/Laws/State.lean ====
section
/-! SUPPORT. One lemma a field for every update of the state, each true by unfolding once. -/

namespace Sys2Proof.Machine

section respondFields
variable (ok : Bool) (data : Word) (s : State)

@[simp] theorem respond_h : (respond ok data s).h = s.h := rfl
@[simp] theorem respond_len : (respond ok data s).len = s.len := rfl
@[simp] theorem respond_buf : (respond ok data s).buf = s.buf := rfl
@[simp] theorem respond_phase : (respond ok data s).phase = s.phase := rfl
@[simp] theorem respond_err : (respond ok data s).err = s.err := rfl
@[simp] theorem respond_engine : (respond ok data s).engine = s.engine := rfl
@[simp] theorem respond_cmd : (respond ok data s).cmd = s.cmd := rfl
@[simp] theorem respond_resp : (respond ok data s).resp = some ⟨ok, data⟩ := rfl
@[simp] theorem respond_host : (respond ok data s).host = s.host := rfl

end respondFields

section beginComputationFields
variable (s : State)

@[simp] theorem beginComputation_h : (beginComputation s).h = initialValues := rfl
@[simp] theorem beginComputation_len : (beginComputation s).len = 0 := rfl
@[simp] theorem beginComputation_buf : (beginComputation s).buf = Vector.replicate 64 0 := rfl
@[simp] theorem beginComputation_phase : (beginComputation s).phase = .absorb := rfl
@[simp] theorem beginComputation_err : (beginComputation s).err = .noError := rfl
@[simp] theorem beginComputation_engine : (beginComputation s).engine = s.engine := rfl
@[simp] theorem beginComputation_cmd : (beginComputation s).cmd = s.cmd := rfl
@[simp] theorem beginComputation_resp : (beginComputation s).resp = s.resp := rfl
@[simp] theorem beginComputation_host : (beginComputation s).host = s.host := rfl

end beginComputationFields

section clearBufFields
variable (s : State)

@[simp] theorem clearBuf_h : (clearBuf s).h = s.h := rfl
@[simp] theorem clearBuf_len : (clearBuf s).len = s.len := rfl
@[simp] theorem clearBuf_buf : (clearBuf s).buf = Vector.replicate 64 0 := rfl
@[simp] theorem clearBuf_phase : (clearBuf s).phase = s.phase := rfl
@[simp] theorem clearBuf_err : (clearBuf s).err = s.err := rfl
@[simp] theorem clearBuf_engine : (clearBuf s).engine = s.engine := rfl
@[simp] theorem clearBuf_cmd : (clearBuf s).cmd = s.cmd := rfl
@[simp] theorem clearBuf_resp : (clearBuf s).resp = s.resp := rfl
@[simp] theorem clearBuf_host : (clearBuf s).host = s.host := rfl

end clearBufFields

section compressBlockFields
variable (b : Block) (s : State)

@[simp] theorem compressBlock_len : (compressBlock b s).len = s.len := rfl
@[simp] theorem compressBlock_buf : (compressBlock b s).buf = s.buf := rfl
@[simp] theorem compressBlock_phase : (compressBlock b s).phase = s.phase := rfl
@[simp] theorem compressBlock_err : (compressBlock b s).err = s.err := rfl
@[simp] theorem compressBlock_engine : (compressBlock b s).engine = { Engine.run s.h b with busy := false } := rfl
@[simp] theorem compressBlock_cmd : (compressBlock b s).cmd = s.cmd := rfl
@[simp] theorem compressBlock_resp : (compressBlock b s).resp = s.resp := rfl
@[simp] theorem compressBlock_host : (compressBlock b s).host = s.host := rfl

end compressBlockFields

section consumeWordFields
variable (s : State)

@[simp] theorem consumeWord_h : (consumeWord s).h = s.h := rfl
@[simp] theorem consumeWord_len : (consumeWord s).len = s.len := rfl
@[simp] theorem consumeWord_buf : (consumeWord s).buf = s.buf := rfl
@[simp] theorem consumeWord_phase : (consumeWord s).phase = s.phase := rfl
@[simp] theorem consumeWord_err : (consumeWord s).err = s.err := rfl
@[simp] theorem consumeWord_engine : (consumeWord s).engine = s.engine := rfl
@[simp] theorem consumeWord_cmd : (consumeWord s).cmd = none := rfl
@[simp] theorem consumeWord_resp : (consumeWord s).resp = s.resp := rfl
@[simp] theorem consumeWord_host : (consumeWord s).host = s.host := rfl

end consumeWordFields

section dropActionFields
variable (s : State)

@[simp] theorem dropAction_h : (dropAction s).h = s.h := rfl
@[simp] theorem dropAction_len : (dropAction s).len = s.len := rfl
@[simp] theorem dropAction_buf : (dropAction s).buf = s.buf := rfl
@[simp] theorem dropAction_phase : (dropAction s).phase = s.phase := rfl
@[simp] theorem dropAction_err : (dropAction s).err = s.err := rfl
@[simp] theorem dropAction_engine : (dropAction s).engine = s.engine := rfl
@[simp] theorem dropAction_cmd : (dropAction s).cmd = s.cmd := rfl
@[simp] theorem dropAction_resp : (dropAction s).resp = s.resp := rfl
@[simp] theorem dropAction_host : (dropAction s).host = { s.host with script := s.host.script.tail } := rfl

end dropActionFields

section resetBlockFields
variable (s : State)

@[simp] theorem resetBlock_h : (resetBlock s).h = initialValues := rfl
@[simp] theorem resetBlock_len : (resetBlock s).len = 0 := rfl
@[simp] theorem resetBlock_buf : (resetBlock s).buf = Vector.replicate 64 0 := rfl
@[simp] theorem resetBlock_phase : (resetBlock s).phase = .absorb := rfl
@[simp] theorem resetBlock_err : (resetBlock s).err = .noError := rfl
@[simp] theorem resetBlock_engine : (resetBlock s).engine = Engine.reset := rfl
@[simp] theorem resetBlock_cmd : (resetBlock s).cmd = s.cmd := rfl
@[simp] theorem resetBlock_resp : (resetBlock s).resp = none := rfl
@[simp] theorem resetBlock_host : (resetBlock s).host = s.host := rfl

end resetBlockFields

section takeResponseFields
variable (s : State)

@[simp] theorem takeResponse_h : (takeResponse s).h = s.h := rfl
@[simp] theorem takeResponse_len : (takeResponse s).len = s.len := rfl
@[simp] theorem takeResponse_buf : (takeResponse s).buf = s.buf := rfl
@[simp] theorem takeResponse_phase : (takeResponse s).phase = s.phase := rfl
@[simp] theorem takeResponse_err : (takeResponse s).err = s.err := rfl
@[simp] theorem takeResponse_engine : (takeResponse s).engine = s.engine := rfl
@[simp] theorem takeResponse_cmd : (takeResponse s).cmd = s.cmd := rfl
@[simp] theorem takeResponse_resp : (takeResponse s).resp = none := rfl
@[simp] theorem takeResponse_host : (takeResponse s).host = ⟨s.host.script.tail, s.host.taken ++ s.resp.toList⟩ := rfl

end takeResponseFields

section eraseTransientFields
variable (s : State)

@[simp] theorem eraseTransient_h : (eraseTransient s).h = s.h := rfl
@[simp] theorem eraseTransient_len : (eraseTransient s).len = s.len := rfl
@[simp] theorem eraseTransient_buf : (eraseTransient s).buf = s.buf := rfl
@[simp] theorem eraseTransient_phase : (eraseTransient s).phase = s.phase := rfl
@[simp] theorem eraseTransient_err : (eraseTransient s).err = s.err := rfl
@[simp] theorem eraseTransient_engine : (eraseTransient s).engine = { Engine.reset with busy := s.engine.busy } := rfl
@[simp] theorem eraseTransient_cmd : (eraseTransient s).cmd = s.cmd := rfl
@[simp] theorem eraseTransient_resp : (eraseTransient s).resp = s.resp := rfl
@[simp] theorem eraseTransient_host : (eraseTransient s).host = s.host := rfl

end eraseTransientFields

end Sys2Proof.Machine
end

