-- ==== Sys2Proof/Laws/Ops.lean ====
section
/-! SUPPORT. What the shared operations of Machine/Ops.lean answer, said once, so that no proof about a command unfolds them. -/

namespace Sys2Proof.Machine

theorem succeed_def (data : Word) (s : State) : succeed data s = .next { s with resp := some ⟨true, data⟩ } := rfl

theorem ignored_def (s : State) : ignored s = .next { s with resp := some ⟨false, 0⟩ } := rfl

theorem raiseError_def (code : ErrorCode) (s : State) :
    raiseError code s = .next { s with phase := .error, err := code, resp := some ⟨false, 0⟩ } := rfl

/-- The gate of R105 in phase ERROR. -/
theorem unlessError_of_error {s : State} (hs : s.phase = .error) (act : Result) : unlessError s act = ignored s := by
  simp only [unlessError, hs]

/-- The gate of R105 outside ERROR. -/
theorem unlessError_of_ne {s : State} (hs : s.phase ≠ .error) (act : Result) : unlessError s act = act := by
  unfold unlessError
  split
  · exact absurd ‹_› hs
  · rfl
  · rfl

theorem onlyInPhase_of_eq {p : Phase} {s : State} (hs : s.phase = p) (act : Result) : onlyInPhase p s act = act :=
  if_pos hs

theorem onlyInPhase_of_ne {p : Phase} {s : State} (hs : s.phase ≠ p) (act : Result) :
    onlyInPhase p s act = raiseError .sequence s := if_neg hs

theorem withIndex_of_lt {count i : Nat} (hi : i < count) (s : State) (act : i < count → Result) :
    withIndex count i s act = act hi := dif_pos hi

theorem withIndex_of_le {count i : Nat} (hi : count ≤ i) (s : State) (act : i < count → Result) :
    withIndex count i s act = raiseError .badIndex s := dif_neg (Nat.not_lt.mpr hi)

/-- Outside ABSORB and DONE there is only ERROR. -/
theorem phase_cases (s : State) : s.phase = .absorb ∨ s.phase = .done ∨ s.phase = .error := by
  cases s.phase <;> simp

theorem bcnt_toNat (s : State) : (bcnt s).toNat = s.len.toNat % 64 := by
  simp [bcnt]

theorem bcnt_eq_63_iff (s : State) : bcnt s = 63 ↔ s.len.toNat % 64 = 63 := by
  rw [← bcnt_toNat, ← BitVec.toNat_inj]
  rfl

theorem len_eq_maxLen_iff (s : State) : s.len = maxLen ↔ s.len.toNat = 2 ^ 61 - 1 := by
  rw [← BitVec.toNat_inj]
  rfl

theorem bitLength_eq (s : State) : bitLength s = BitVec.ofNat 64 (8 * s.len.toNat) := by
  have hlt := s.len.isLt
  apply BitVec.eq_of_toNat_eq
  simp only [bitLength, BitVec.toNat_shiftLeft, BitVec.toNat_setWidth, BitVec.toNat_ofNat]
  omega

end Sys2Proof.Machine
end

