-- ==== Sys2Proof/Laws/Compressor.lean ====
section
/-! SUPPORT. The engine, round by round, computes the pure compression of R92. -/

namespace Sys2Proof.Machine

/-- After n rounds the engine holds the variables after n rounds, the block's schedule and the count n, and is busy. -/
theorem ticks_start (h : HashState) (b : Block) (n : Nat) (hn : n ≤ 64) :
    (Engine.start h b).ticks n = ⟨varsAfter (schedule b) (loadVars h) n hn, schedule b, BitVec.ofNat 7 n, true⟩ := by
  induction n with
  | zero => rfl
  | succ n ih =>
    have hlt : n % 2 ^ 7 = n := by omega
    rw [Engine.ticks, ih (by omega), Engine.tick]
    simp only [BitVec.toNat_ofNat, hlt]
    rw [dif_pos (by omega)]
    simp [varsAfter, BitVec.ofNat_add]

/-- The engine at the end of a compression: rc = 64 (R29). -/
theorem run_eq (h : HashState) (b : Block) :
    Engine.run h b = ⟨varsAfter (schedule b) (loadVars h) 64 (Nat.le_refl 64), schedule b, 64, true⟩ :=
  ticks_start h b 64 (Nat.le_refl 64)

/-- The machine's compression writes `Compress(H, B)` into H. -/
@[simp] theorem compressBlock_h (b : Block) (s : State) : (compressBlock b s).h = compress s.h b := by
  simp [compressBlock, run_eq, compress]

@[simp] theorem compressBlock_rc (b : Block) (s : State) : (compressBlock b s).engine.rc = 64 := by
  simp [run_eq]

theorem compressBlocks_nil (h : HashState) : compressBlocks h [] = h := rfl

theorem compressBlocks_cons (h : HashState) (b : Block) (bs : List Block) :
    compressBlocks h (b :: bs) = compressBlocks (compress h b) bs := rfl

theorem compressBlocks_append (h : HashState) (bs cs : List Block) :
    compressBlocks h (bs ++ cs) = compressBlocks (compressBlocks h bs) cs := List.foldl_append

end Sys2Proof.Machine
end

