-- ==== Sys2Proof/Laws/Padder.lean ====
section
/-! SUPPORT. What the streaming padding unit writes, field by field. -/

namespace Sys2Proof.Machine

/-- PadAbsorb when the byte does not complete a block. -/
theorem padAbsorb_of_ne (d : Byte) {s : State} (hn : bcnt s ≠ 63) :
    padAbsorb d s = { s with buf := bufWith d s, len := s.len + 1 } :=
  if_neg hn

/-- PadAbsorb when the byte completes a block. -/
theorem padAbsorb_of_eq (d : Byte) {s : State} (hn : bcnt s = 63) :
    padAbsorb d s = clearBuf (compressBlock (bufWith d s) { s with buf := bufWith d s, len := s.len + 1 }) :=
  if_pos hn

@[simp] theorem padAbsorb_h (d : Byte) (s : State) : (padAbsorb d s).h = compressBlocks s.h (completedBlocks d s) := by
  unfold completedBlocks
  split
  · rename_i hn
    simp [padAbsorb_of_eq d hn, compressBlocks]
  · rename_i hn
    simp [padAbsorb_of_ne d hn, compressBlocks]

@[simp] theorem padAbsorb_len (d : Byte) (s : State) : (padAbsorb d s).len = s.len + 1 := by
  by_cases hn : bcnt s = 63
  · simp [padAbsorb_of_eq d hn]
  · simp [padAbsorb_of_ne d hn]

@[simp] theorem padAbsorb_phase (d : Byte) (s : State) : (padAbsorb d s).phase = s.phase := by
  by_cases hn : bcnt s = 63
  · simp [padAbsorb_of_eq d hn]
  · simp [padAbsorb_of_ne d hn]

@[simp] theorem padAbsorb_err (d : Byte) (s : State) : (padAbsorb d s).err = s.err := by
  by_cases hn : bcnt s = 63
  · simp [padAbsorb_of_eq d hn]
  · simp [padAbsorb_of_ne d hn]

@[simp] theorem padAbsorb_cmd (d : Byte) (s : State) : (padAbsorb d s).cmd = s.cmd := by
  by_cases hn : bcnt s = 63
  · simp [padAbsorb_of_eq d hn]
  · simp [padAbsorb_of_ne d hn]

@[simp] theorem padAbsorb_resp (d : Byte) (s : State) : (padAbsorb d s).resp = s.resp := by
  by_cases hn : bcnt s = 63
  · simp [padAbsorb_of_eq d hn]
  · simp [padAbsorb_of_ne d hn]

@[simp] theorem padAbsorb_host (d : Byte) (s : State) : (padAbsorb d s).host = s.host := by
  by_cases hn : bcnt s = 63
  · simp [padAbsorb_of_eq d hn]
  · simp [padAbsorb_of_ne d hn]

/-- A run of compressions, field by field: H is the chained compression, nothing but H and the engine changes. -/
theorem compressAll_fields (bs : List Block) (s : State) :
    let t := bs.foldl (fun t b => compressBlock b t) s
    t.h = compressBlocks s.h bs ∧ t.len = s.len ∧ t.buf = s.buf ∧ t.phase = s.phase ∧ t.err = s.err ∧
      t.cmd = s.cmd ∧ t.resp = s.resp ∧ t.host = s.host := by
  induction bs generalizing s with
  | nil => simp [compressBlocks]
  | cons b bs ih => simpa [compressBlocks] using ih (compressBlock b s)

@[simp] theorem padFinal_h (s : State) : (padFinal s).h = compressBlocks s.h (finalBlocks s) :=
  (compressAll_fields (finalBlocks s) s).1

@[simp] theorem padFinal_len (s : State) : (padFinal s).len = s.len := (compressAll_fields (finalBlocks s) s).2.1

@[simp] theorem padFinal_buf (s : State) : (padFinal s).buf = Vector.replicate 64 0 := rfl

@[simp] theorem padFinal_err (s : State) : (padFinal s).err = s.err := (compressAll_fields (finalBlocks s) s).2.2.2.2.1

@[simp] theorem padFinal_cmd (s : State) : (padFinal s).cmd = s.cmd := (compressAll_fields (finalBlocks s) s).2.2.2.2.2.1

@[simp] theorem padFinal_host (s : State) : (padFinal s).host = s.host := (compressAll_fields (finalBlocks s) s).2.2.2.2.2.2.2

/-- FINISH leaves the engine idle with rc = 64: it compresses at least one block (R76). -/
theorem padFinal_engine (s : State) : (padFinal s).engine.busy = false ∧ (padFinal s).engine.rc = 64 := by
  unfold padFinal finalBlocks
  split <;> simp [run_eq]

end Sys2Proof.Machine
end

