-- ==== Sys2Proof/Laws/PerInstr.lean ====
section
/-! SUPPORT. A fact about every command as syntax: its word matches its own row of the opcode table (R58). -/

namespace Sys2Proof.Laws.TableRow

open Sys2Proof

/-- The word of the command, under the mask of its row, is the row's match value. -/
def Statement (i : Instr) : Prop := (opcodeRow i).matches (encode i)

/-- A word made of an opcode, rsv = 0000 and an operand keeps only its first byte under the mask 0xFF00. -/
theorem packFields_mask : ∀ (op : BitVec 4) (opd : Byte), packFields op 0 opd &&& 0xFF00 = packFields op 0 0 := by
  decide +kernel

theorem nop : Statement .nop := (by decide : (opcodeRow .nop).matches (encode .nop))
theorem init : Statement .init := (by decide : (opcodeRow .init).matches (encode .init))
theorem absorb (d : Byte) : Statement (.absorb d) := packFields_mask 2 d
theorem finish : Statement .finish := (by decide : (opcodeRow .finish).matches (encode .finish))
theorem rdstat : Statement .rdstat := (by decide : (opcodeRow .rdstat).matches (encode .rdstat))
theorem rdw (i : Nat) : Statement (.rdw i) := packFields_mask 5 _
theorem rdb (m : Nat) : Statement (.rdb m) := packFields_mask 6 _
theorem rdh (c : Nat) : Statement (.rdh c) := packFields_mask 7 _
theorem rdl (i : Nat) : Statement (.rdl i) := packFields_mask 8 _

end Sys2Proof.Laws.TableRow
end

