-- ==== Sys2Proof/Laws/Step.lean ====
section
/-! SUPPORT. What performing a word and one step answer, said once, so that proofs about runs cite it. -/

namespace Sys2Proof.Machine

theorem perform_of_ok {w : CmdWord} {i : Instr} (hd : decode w = .ok i) (s : State) : perform w s = exec i s := by
  simp only [perform, hd]

theorem perform_of_error {w : CmdWord} {e : IllegalWord} (hd : decode w = .error e) (s : State) :
    perform w s = execIllegal s := by
  simp only [perform, hd]

/-- Which word is accepted: the presented one, with the response port empty and BUSY = 0. -/
theorem acceptable_eq_some_iff (s : State) (w : CmdWord) :
    acceptable s = some w ↔ s.cmd = some w ∧ s.resp = none ∧ s.engine.busy = false := by
  unfold acceptable
  rcases s.cmd with _ | v <;> rcases s.resp with _ | r <;> cases s.engine.busy <;> simp

theorem cutByReset_iff (s : State) : cutByReset s = true ↔ s.host.script.head? = some .resetDuring := by
  simp [cutByReset]

/-- A step that accepts a word and lets it complete. -/
theorem step_of_accept {s : State} {w : CmdWord} (hw : acceptable s = some w) (hc : s.host.script.head? ≠ some .resetDuring) :
    step s = perform w (consumeWord s) := by
  have hn : ¬cutByReset s = true := fun hx => hc ((cutByReset_iff s).mp hx)
  simp only [step, hw, if_neg hn]

/-- A step that accepts a word and is cut short by reset. -/
theorem step_of_cut {s : State} {w : CmdWord} (hw : acceptable s = some w) (hc : s.host.script.head? = some .resetDuring) :
    step s = .next (cutCommand s) := by
  simp only [step, hw, if_pos ((cutByReset_iff s).mpr hc)]

/-- A step that accepts nothing is an act of the host. -/
theorem step_of_none {s : State} (hw : acceptable s = none) : step s = .next (hostMove s) := by
  simp only [step, hw]

theorem hostMove_idle {s : State} (hs : s.host.script = []) : hostMove s = s := by
  simp only [hostMove, hs]

theorem hostMove_present {s : State} {w : CmdWord} {rest : List HostAction} (hs : s.host.script = .present w :: rest) :
    hostMove s = presentWord w s := by
  simp only [hostMove, hs]

theorem hostMove_take {s : State} {rest : List HostAction} (hs : s.host.script = .take :: rest) :
    hostMove s = takeResponse s := by
  simp only [hostMove, hs]

theorem hostMove_reset {s : State} {rest : List HostAction} (hs : s.host.script = .reset :: rest) :
    hostMove s = resetBlock (dropAction s) := by
  simp only [hostMove, hs]

theorem hostMove_resetDuring {s : State} {rest : List HostAction} (hs : s.host.script = .resetDuring :: rest) :
    hostMove s = resetBlock (dropAction s) := by
  simp only [hostMove, hs]

end Sys2Proof.Machine
end

