-- ==== Sys2Proof/Tests/Slice0.lean ====
section
/-! SUPPORT. Tests against the vectors of spec/95_test_vectors.md and hand calculation from the rules, and for each statement
with hypotheses a concrete state and operands that meet them. -/

namespace Sys2Proof.Tests

set_option Elab.async false

open Sys2Proof Sys2Proof.Machine

/-! ## Start states of spec/95_test_vectors.md -/

/-- A buffer that begins with the given bytes and goes on with 0x00. -/
def bufOf (bytes : List Byte) : Block := Vector.ofFn fun j => bytes.getD j.val 0

/-- A0 with the given length and buffer: A3 and A63 are of this form. -/
def openAt (len : Nat) (bytes : List Byte) : State := { State.reset with len := BitVec.ofNat 61 len, buf := bufOf bytes }

/-- A3: the bytes of "abc" absorbed. -/
def a3 : State := openAt 3 [0x61, 0x62, 0x63]

/-- n bytes 0x61 in an otherwise fresh state; A63 is `runOfA 63`. -/
def runOfA (n : Nat) : State := openAt n (List.replicate n 0x61)

/-- MAX: the length limit, with 63 bytes in the buffer. -/
def atLimit : State := openAt (2 ^ 61 - 1) (List.replicate 63 0x61)

/-- The final state words of "abc" (L1.2). -/
def abcWords : HashState :=
  #v[0xba7816bf, 0x8f01cfea, 0x414140de, 0x5dae2223, 0xb00361a3, 0x96177a9c, 0xb410ff61, 0xf20015ad]

/-- D3: "abc" finished. -/
def d3 : State := { State.reset with h := abcWords, len := 3, phase := .done }

/-- E2: D3 after a SEQUENCE error. -/
def e2 : State := { d3 with phase := .error, err := .sequence }

/-- The state a word leaves. -/
def after (w : CmdWord) (s : State) : State :=
  match perform w s with
  | .next t => t
  | .fault _ => s
  | .refused _ => s

/-- What a row of L2.12 shows: the response, phase, err and L after the word. -/
def shown (w : CmdWord) (s : State) : Option Response × Phase × ErrorCode × Nat :=
  let t := after w s
  (t.resp, t.phase, t.err, t.len.toNat)

/-- The response (ok, data) and nothing else. -/
def answer (w : CmdWord) (s : State) : Option Response := (after w s).resp

/-- The state with a word on the command port and a script for the host. -/
def scripted (cmd : Option CmdWord) (script : List HostAction) (s : State) : State :=
  { s with cmd := cmd, host := ⟨script, []⟩ }

/-! ## Well-formedness: the ill-formed terms the check refuses (R57) -/

theorem test_wellFormed_bounds :
    (Instr.rdw 255).WellFormed ∧ (Instr.rdb 255).WellFormed ∧ (Instr.rdh 255).WellFormed ∧ (Instr.rdl 255).WellFormed := by
  decide

theorem test_illFormed_rdw : ¬(Instr.rdw 256).WellFormed := by decide
theorem test_illFormed_rdb : ¬(Instr.rdb 256).WellFormed := by decide
theorem test_illFormed_rdh : ¬(Instr.rdh 256).WellFormed := by decide
theorem test_illFormed_rdl : ¬(Instr.rdl 256).WellFormed := by decide

/-! ## Decoding: words written out from R56 and R58, op, rsv, opd -/

theorem test_decode_nop : decode 0b0000_0000_00000000 = .ok .nop := by decide
theorem test_decode_init : decode 0b0001_0000_00000000 = .ok .init := by decide
theorem test_decode_absorb : decode 0b0010_0000_01100001 = .ok (.absorb 0x61) := by decide
theorem test_decode_finish : decode 0b0011_0000_00000000 = .ok .finish := by decide
theorem test_decode_rdstat : decode 0b0100_0000_00000000 = .ok .rdstat := by decide
theorem test_decode_rdw : decode 0b0101_0000_00000111 = .ok (.rdw 7) := by decide
theorem test_decode_rdb : decode 0b0110_0000_00011111 = .ok (.rdb 31) := by decide
theorem test_decode_rdh : decode 0b0111_0000_00111111 = .ok (.rdh 63) := by decide
theorem test_decode_rdl : decode 0b1000_0000_00000001 = .ok (.rdl 1) := by decide

/-- L2.11: an index out of range still decodes. -/
theorem test_decode_large_index :
    decode 0x50ff = .ok (.rdw 255) ∧ decode 0x6020 = .ok (.rdb 32) ∧ decode 0x7040 = .ok (.rdh 64) ∧
      decode 0x8002 = .ok (.rdl 2) := by decide

/-- L2.11: the rejected words. -/
theorem test_decode_rejects :
    decode 0x0001 = .error .nonzeroOperand ∧ decode 0x0100 = .error .reservedField ∧ decode 0x3001 = .error .nonzeroOperand ∧
      decode 0x2100 = .error .reservedField ∧ decode 0xf0ff = .error .reservedOpcode ∧ decode 0xffff = .error .reservedField := by
  decide

theorem test_decodeTableWord : decodeTableWord 16 0x8001 = some (.rdl 1) ∧ decodeTableWord 16 0x9000 = none := by decide

theorem test_encode : encode (.absorb 0xff) = 0x20ff ∧ encode (.rdh 63) = 0x703f := by decide

/-! ## Word operations and functions (L2.1 to L2.3) -/

theorem test_rotr : rotr 0x12345678 7 = 0xf02468ac ∧ rotr 0x80000000 31 = 0x00000001 := by decide
theorem test_shr : shr 0x80000000 3 = 0x10000000 ∧ shr 0xffffffff 10 = 0x003fffff := by decide
theorem test_sumWords :
    sumWords [0x6a09e667, 0xbb67ae85] = 0x257194ec ∧
      sumWords [0xffffffff, 0xffffffff, 0xffffffff, 0xffffffff, 0xffffffff] = 0xfffffffb := by decide
theorem test_bitwise :
    wordAnd 0x12345678 0x0f0f0f0f = 0x02040608 ∧ wordXor 0x12345678 0xffff0000 = 0xedcb5678 ∧
      wordNot 0x12345678 = 0xedcba987 := by decide
theorem test_sigmas :
    smallSigma0 0x61626380 = 0x940e90ef ∧ smallSigma1 0x61626380 = 0x7da86405 ∧
      bigSigma0 0x61626380 = 0x8dd59276 ∧ bigSigma1 0x61626380 = 0xc0b865f2 := by decide
theorem test_choose_majority :
    choose 0xff00ff00 0x0ff00ff0 0x00ffff00 = 0x0fff0f00 ∧ majority 0xff00ff00 0x0ff00ff0 0x00ffff00 = 0x0ff0ff00 := by decide

/-! ## Schedule, rounds, compression (L2.5 to L2.7) -/

/-- The one padded block of "abc" (L2.4). -/
def abcBlock : Block := blockAt (pad [0x61, 0x62, 0x63]) 0

theorem test_schedule_abc :
    ((schedule abcBlock)[0], (schedule abcBlock)[15], (schedule abcBlock)[18], (schedule abcBlock)[63]) =
      ((0x61626380, 0x00000018, 0x7da86405, 0x12b1edeb) : Word × Word × Word × Word) := by decide +kernel

theorem test_round_first :
    roundStep 0 0x61626380 (loadVars initialValues) =
      ⟨0x5d6aebcd, 0x6a09e667, 0xbb67ae85, 0x3c6ef372, 0xfa2a4622, 0x510e527f, 0x9b05688c, 0x1f83d9ab⟩ := by decide +kernel

theorem test_round_last :
    roundStep 63 0x12b1edeb ⟨0xd39a2165, 0x04d24d6c, 0xb85e2ce9, 0xb6ae8fff, 0xfb121210, 0x948d25b6, 0x961f4894, 0xb21bad3d⟩ =
      ⟨0x506e3058, 0xd39a2165, 0x04d24d6c, 0xb85e2ce9, 0x5ef50f24, 0xfb121210, 0x948d25b6, 0x961f4894⟩ := by decide +kernel

/-- L2.7, second row. -/
theorem test_compress_zero_block :
    compress initialValues (Vector.replicate 64 0) =
      #v[0xda5698be, 0x17b9b469, 0x62335799, 0x779fbeca, 0x8ce5d491, 0xc0d26243, 0xbafef9ea, 0x1837a9d8] := by decide +kernel

/-- R6 and R72: 2^61 − 1 is the largest length in bytes whose bit length is at most 2^64 − 1; 64 rounds, one a constant. -/
theorem test_parameters :
    8 * Config.maxMsgBytes ≤ Config.maxMsgBits ∧ Config.maxMsgBits < 8 * (Config.maxMsgBytes + 1) ∧
      Config.rounds = roundConstants.toList.length := by decide +kernel

/-! ## Padding (L2.4) and formatting (L2.8) -/

theorem test_pad_boundary :
    (pad (List.replicate 55 0x61)).drop 54 = [0x61, 0x80, 0, 0, 0, 0, 0, 0, 0x01, 0xb8] ∧
      (pad (List.replicate 56 0x61)).length = 128 := by decide +kernel

theorem test_final_blocks :
    ((finalBlocks (runOfA 55)).map fun b => (b[54], b[55], b[62], b[63])) = [(0x61, 0x80, 0x01, 0xb8)] ∧
      ((finalBlocks (runOfA 63)).map fun b => (b[0], b[62], b[63])) = [(0x61, 0x61, 0x80), (0x00, 0x01, 0xf8)] := by
  decide +kernel

theorem test_format_iv :
    (formatDigest initialValues)[0] = 0x6a ∧ (formatDigest initialValues)[7] = 0x85 ∧ (hexDigest initialValues)[1] = 0x61 ∧
      (hexDigest initialValues)[63] = 0x39 := by decide +kernel

/-! ## The commands, one word on a start state (L2.12, L2.13) -/

theorem test_nop : shown 0x0000 e2 = (some ⟨true, 0⟩, .error, .sequence, 3) := by decide +kernel
theorem test_init : shown 0x1000 e2 = (some ⟨true, 0⟩, .absorb, .noError, 0) := by decide +kernel
theorem test_init_h : (after 0x1000 e2).h = initialValues := by decide +kernel

/-- S19: the 64th byte is compressed at once. -/
theorem test_absorb_block :
    ((after 0x2061 (runOfA 63)).h[0], (after 0x2061 (runOfA 63)).len, (after 0x2061 (runOfA 63)).buf) =
      ((0xdf5bb81c, 64, Vector.replicate 64 0) : Word × BitVec 61 × Block) := by decide +kernel

/-- S39. -/
theorem test_absorb_limit : shown 0x2061 atLimit = (some ⟨false, 0⟩, .error, .lenOverflow, 2 ^ 61 - 1) := by decide +kernel

/-- S18. -/
theorem test_finish_abc : (after 0x3000 a3).h = abcWords := by decide +kernel

/-- S20: two blocks. -/
theorem test_finish_two_blocks : (after 0x3000 (runOfA 63)).h[7] = 0x7ddc2f34 := by decide +kernel

theorem test_rdstat_fields :
    (answer 0x4000 a3, answer 0x4000 d3, answer 0x4000 e2) =
      (some ⟨true, 0x300⟩, some ⟨true, 0x301⟩, some ⟨true, 0x322⟩) := by decide +kernel
theorem test_rdstat_overflow : answer 0x4000 (after 0x2061 atLimit) = some ⟨true, 0x3f12⟩ := by decide +kernel
theorem test_rdw : (answer 0x5000 State.reset, answer 0x5007 d3) = (some ⟨true, 0x6a09e667⟩, some ⟨true, 0xf20015ad⟩) := by
  decide +kernel
theorem test_rdw_index : shown 0x5008 State.reset = (some ⟨false, 0⟩, .error, .badIndex, 0) := by decide +kernel
theorem test_rdb : (answer 0x6000 d3, answer 0x601f d3) = (some ⟨true, 0xba⟩, some ⟨true, 0xad⟩) := by decide +kernel

/-- P6: RDB 40 in ABSORB is SEQUENCE, not BAD_INDEX. -/
theorem test_rdb_priority : shown 0x6028 State.reset = (some ⟨false, 0⟩, .error, .sequence, 0) := by decide +kernel
theorem test_rdh : (answer 0x7000 d3, answer 0x703f d3) = (some ⟨true, 0x62⟩, some ⟨true, 0x64⟩) := by decide +kernel
theorem test_rdh_index : shown 0x7040 d3 = (some ⟨false, 0⟩, .error, .badIndex, 3) := by decide +kernel
theorem test_rdl :
    (answer 0x8000 a3, answer 0x8000 atLimit, answer 0x8001 atLimit) =
      (some ⟨true, 0x18⟩, some ⟨true, 0xfffffff8⟩, some ⟨true, 0xffffffff⟩) := by decide +kernel
theorem test_rdl_index : shown 0x8002 State.reset = (some ⟨false, 0⟩, .error, .badIndex, 0) := by decide +kernel
theorem test_illegal_word :
    (shown 0x2161 State.reset, shown 0xffff e2) =
      ((some ⟨false, 0⟩, .error, .illegalCmd, 0), (some ⟨false, 0⟩, .error, .sequence, 3)) := by decide +kernel

/-! ## The step and the ports -/

/-- The first step after reset with a word on the port performs it. -/
theorem test_step_first : step (State.reset.withFetchWord 16 0x4000) = .next { State.reset with resp := some ⟨true, 0⟩ } := rfl

/-- From reset with nothing placed the block idles. -/
theorem test_step_idle : step State.reset = .next State.reset := rfl

/-! ## Assembler (R63) -/

theorem test_assemble_line :
    assembleLine ['A', 'B', 'S', 'O', 'R', 'B', ' ', '0', 'x', '6', '1'] = .ok [.absorb 0x61] ∧
      assembleLine ['A', 'B', 'S', 'O', 'R', 'B', ' ', '\'', 'a', '\'', ' ', ';', 'x'] = .ok [.absorb 0x61] := by decide +kernel

theorem test_assemble_rejects : assembleLine ['R', 'D', 'W', ' ', '2', '5', '6'] = .error .operandTooLarge := by decide +kernel

theorem test_assemble_words : assemble [['R', 'D', 'W', ' ', '7'], ['L', 'E', 'N', 'G', 'T', 'H']] = .ok [0x5007, 0x8000, 0x8001] := by
  decide +kernel

/-! ## Witnesses: for each statement with hypotheses, operands and states that meet them, clause by clause -/

theorem witness_DecodeEncodeRoundTrip :
    (Instr.absorb 0xff).WellFormed ∧ (Instr.rdw 0).WellFormed ∧ (Instr.rdw 255).WellFormed ∧ (Instr.rdl 255).WellFormed := by
  decide

theorem witness_EncodeDecodeRoundTrip : decode 0x2000 = .ok (.absorb 0) ∧ decode 0x80ff = .ok (.rdl 255) := by decide

theorem witness_OpcodeTableDecides :
    (⟨"ABSORB", 0x2000, 0xFF00⟩ : OpcodeRow) ∈ opcodeTable ∧ (0x20ff : CmdWord) &&& 0xFF00 = 0x2000 ∧
      (⟨"NOP", 0x0000, 0xFFFF⟩ : OpcodeRow) ∈ opcodeTable ∧ (0x0000 : CmdWord) &&& 0xFFFF = 0x0000 := by decide

theorem witness_IllegalWords :
    decode 0x9000 = .error .reservedOpcode ∧ decode 0x0001 = .error .nonzeroOperand ∧
      State.reset.phase ≠ .error ∧ d3.phase ≠ .error ∧ e2.phase = .error := by decide

theorem witness_RotrIsCircular : (1 ≤ 1 ∧ 1 ≤ 31 ∧ 0 < 32) ∧ (1 ≤ 31 ∧ 31 ≤ 31 ∧ 31 < 32) := by decide

/-- Both sides of `j ≤ 31 - n`, at n = 31: j = 0 takes bit 31, j = 1 takes none. -/
theorem witness_WordOpsBitwise : (1 ≤ 31 ∧ 31 ≤ 31 ∧ 0 < 32 ∧ 0 ≤ 31 - 31) ∧ (1 < 32 ∧ ¬ 1 ≤ 31 - 31) := by decide

theorem witness_SumIsModulo : ([1, 2, 3] : List Word).Perm [3, 1, 2] := by decide

theorem witness_SigmaBits : 0 < 32 ∧ 31 < 32 := by decide

theorem witness_ChooseAndMajorityBits : 0 < 32 ∧ 31 < 32 := by decide

theorem witness_PadUsesLeastZeroFill :
    ([0x61, 0x62, 0x63] : List Byte).length ≤ 2 ^ 61 - 1 ∧ (56 + 1 + 63) % 64 = 56 ∧ (55 + 1 + 0) % 64 = 56 ∧ 0 < 63 ∧ (56 + 1 + 0) % 64 ≠ 56 := by decide

theorem witness_PadProperties :
    ([] : List Byte).length ≤ 2 ^ 61 - 1 ∧ (List.replicate 56 (0x61 : Byte)).length ≤ 2 ^ 61 - 1 := by decide

theorem witness_BlocksCutTheMessage :
    (List.replicate 128 (0x61 : Byte)).length = 64 * 2 ∧ 0 < 2 ∧ 1 < 2 ∧ ([] : List Byte).length = 64 * 0 := by decide +kernel

theorem witness_PaddingByResidue_one_block :
    (List.replicate 55 (0x61 : Byte)).length % 64 ≤ 55 ∧ (runOfA 55).phase = .absorb ∧
      (runOfA 55).len.toNat = (List.replicate 55 (0x61 : Byte)).length := by decide +kernel

theorem witness_PaddingByResidue_two_blocks :
    56 ≤ (List.replicate 56 (0x61 : Byte)).length % 64 ∧ (runOfA 56).phase = .absorb ∧
      (runOfA 56).len.toNat = (List.replicate 56 (0x61 : Byte)).length := by decide +kernel

theorem witness_StreamingPadsTheMessage :
    ([0x61, 0x62, 0x63] : List Byte).length ≤ 2 ^ 61 - 1 ∧ State.reset.len = 0 ∧ State.reset.buf = Vector.replicate 64 0 := by
  decide

theorem witness_HexDigestCharacters :
    (9 : BitVec 4).toNat < 10 ∧ 10 ≤ (10 : BitVec 4).toNat ∧ 10 ≤ (15 : BitVec 4).toNat := by decide

/-- BCNT at 0 and at 62. -/
theorem witness_AbsorbTakesInOneByte_inside :
    (State.reset.phase = .absorb ∧ State.reset.len.toNat ≠ 2 ^ 61 - 1 ∧ State.reset.len.toNat % 64 < 63) ∧
      ((runOfA 62).phase = .absorb ∧ (runOfA 62).len.toNat ≠ 2 ^ 61 - 1 ∧ (runOfA 62).len.toNat % 64 < 63) := by decide +kernel

theorem witness_AbsorbTakesInOneByte_block :
    (runOfA 63).phase = .absorb ∧ (runOfA 63).len.toNat ≠ 2 ^ 61 - 1 ∧ (runOfA 63).len.toNat % 64 = 63 := by decide +kernel

theorem witness_AbsorbTakesInOneByte_errors :
    atLimit.phase = .absorb ∧ atLimit.len.toNat = 2 ^ 61 - 1 ∧ d3.phase = .done ∧ e2.phase = .error := by decide +kernel

/-- BCNT at 0 and 55, the ends of the one-block clause. -/
theorem witness_FinishPadsAndCompresses_one_block :
    (State.reset.phase = .absorb ∧ State.reset.len.toNat % 64 ≤ 55) ∧
      ((runOfA 55).phase = .absorb ∧ (runOfA 55).len.toNat % 64 ≤ 55) := by decide +kernel

/-- BCNT at 56 and 63, the ends of the two-block clause. -/
theorem witness_FinishPadsAndCompresses_two_blocks :
    ((runOfA 56).phase = .absorb ∧ 56 ≤ (runOfA 56).len.toNat % 64) ∧ (atLimit.phase = .absorb ∧ 56 ≤ atLimit.len.toNat % 64) := by
  decide +kernel

theorem witness_FinishPadsAndCompresses_errors : d3.phase = .done ∧ e2.phase = .error := by decide

theorem witness_RdwReturnsStateWord :
    255 < 256 ∧ (State.reset.phase ≠ .error ∧ 0 ≤ 7) ∧ (d3.phase ≠ .error ∧ 7 ≤ 7) ∧ (State.reset.phase ≠ .error ∧ 7 < 8) ∧
      e2.phase = .error := by decide

theorem witness_RdbReturnsDigestByte :
    255 < 256 ∧ (d3.phase = .done ∧ 0 ≤ 31) ∧ (d3.phase = .done ∧ 31 ≤ 31) ∧ a3.phase = .absorb ∧ (d3.phase = .done ∧ 31 < 32) ∧
      e2.phase = .error := by decide

theorem witness_RdhReturnsHexCharacter :
    255 < 256 ∧ (d3.phase = .done ∧ 0 ≤ 63) ∧ (d3.phase = .done ∧ 63 ≤ 63) ∧ a3.phase = .absorb ∧ (d3.phase = .done ∧ 63 < 64) ∧
      e2.phase = .error := by decide

theorem witness_RdlReturnsLengthHalf :
    255 < 256 ∧ atLimit.phase ≠ .error ∧ d3.phase ≠ .error ∧ (a3.phase ≠ .error ∧ 1 < 2) ∧ e2.phase = .error := by decide

theorem witness_ErrorEntryIsPrecise :
    perform 0x3000 d3 = .next { d3 with phase := .error, err := .sequence, resp := some ⟨false, 0⟩ } ∧ d3.phase ≠ .error :=
  ⟨rfl, by decide⟩

theorem witness_ErrorPriority :
    e2.phase = .error ∧ (atLimit.phase ≠ .error ∧ atLimit.err = .noError) ∧ (d3.phase ≠ .error ∧ d3.err = .noError) := by decide

theorem witness_IgnoredInError :
    e2.phase = .error ∧ decode 0x3000 ≠ .ok .nop ∧ decode 0x3000 ≠ .ok .init ∧ decode 0x3000 ≠ .ok .rdstat := by decide

/-- INIT, reset between commands and reset during a command each leave ERROR. -/
theorem witness_OnlyInitAndResetLeaveError :
    e2.phase = .error ∧
      (∃ t, step (scripted (some 0x1000) [] e2) = .next t ∧ t.phase ≠ .error) ∧
      (∃ t, step (scripted none [.reset] e2) = .next t ∧ t.phase ≠ .error) ∧
      ∃ t, step (scripted (some 0x4000) [.resetDuring] e2) = .next t ∧ t.phase ≠ .error :=
  ⟨rfl, ⟨_, rfl, by decide⟩, ⟨_, rfl, by decide⟩, ⟨_, rfl, by decide⟩⟩

theorem witness_ReadsHaveNoSideEffect :
    IsRead .rdstat ∧ IsRead (.rdw 0) ∧ IsRead (.rdb 31) ∧ IsRead (.rdh 63) ∧ IsRead (.rdl 1) ∧
      (∃ t, exec (.rdb 31) d3 = .next t ∧ t.resp = some ⟨true, 0xad⟩) ∧
      (∃ t, exec (.rdl 0) a3 = .next t ∧ t.resp = some ⟨true, 0x18⟩) ∧
      a3.phase ≠ .error ∧ ∃ t, exec (.rdb 0) a3 = .next t ∧ t.resp = some ⟨false, 0⟩ :=
  ⟨trivial, trivial, trivial, trivial, trivial, ⟨_, rfl, by decide +kernel⟩, ⟨_, rfl, by decide +kernel⟩, by decide, _, rfl, rfl⟩

theorem witness_WordAndByteReadsAgree : d3.phase = .done := by decide

theorem witness_RegistersTrackTheMessage_absorb : Tracks [0x61, 0x62, 0x63] a3 :=
  ⟨rfl, rfl, rfl, by decide +kernel⟩

theorem witness_RegistersTrackTheMessage_done :
    Tracks [0x61] { State.reset with h := hashState [0x61], len := 1, phase := .done } :=
  ⟨rfl, rfl, rfl, rfl⟩

theorem witness_RegistersTrackTheMessage_error :
    Tracks [0x61, 0x62, 0x63] { a3 with phase := .error, err := .badIndex } :=
  ⟨rfl, by decide, .inl ⟨rfl, by decide +kernel⟩⟩

theorem witness_CommandSequenceComputesSha256 : ([0x61, 0x62, 0x63] : List Byte).length ≤ 2 ^ 61 - 1 := by decide

theorem witness_PortsDeliverEveryResponse :
    let s := scripted none (dutifulScript [0x1000, 0x9000]) d3
    s.cmd = none ∧ s.resp = none ∧ s.engine.busy = false ∧ s.host.script = dutifulScript [0x1000, 0x9000] := by decide

/-- Reset while idle, and reset while a word waits behind an unread response. -/
theorem witness_ResetValues :
    (acceptable (scripted none [.reset] d3) = none ∧ (scripted none [.reset] d3).host.script.head? = some .reset) ∧
      (acceptable { scripted (some 0x0000) [.reset] d3 with resp := some ⟨true, 0⟩ } = none) := by decide

theorem witness_ResetCutsTheCommandShort :
    acceptable (scripted (some 0x3000) [.resetDuring, .take] a3) = some 0x3000 ∧
      (scripted (some 0x3000) [.resetDuring, .take] a3).host.script.head? = some .resetDuring := by decide

/-- A word of a command and an illegal word on the command port. -/
theorem witness_StepRunsTheDecodedCommand :
    let s := scripted (some 0x3000) [.take] a3
    let t := scripted (some 0x9000) [.take] a3
    (s.cmd = some 0x3000 ∧ s.resp = none ∧ s.engine.busy = false ∧ s.host.script.head? ≠ some .resetDuring ∧
      decode 0x3000 = .ok .finish) ∧
    (t.cmd = some 0x9000 ∧ t.resp = none ∧ t.engine.busy = false ∧ t.host.script.head? ≠ some .resetDuring ∧
      decode 0x9000 = .error .reservedOpcode) := by decide

theorem witness_StepKeepsInv : MachineInv (scripted (some 0x1000) [] a3) ∧ ∃ t, step (scripted (some 0x1000) [] a3) = .next t :=
  ⟨{ err_iff := by decide
     buf_zero := by decide +kernel
     done_buf := fun hd => by cases hd
     rc_le := by decide
     not_busy := rfl }, _, rfl⟩

theorem witness_EveryCommandCompletes :
    acceptable (scripted (some 0x3000) [.take] a3) = some 0x3000 ∧
      (scripted (some 0x3000) [.take] a3).host.script.head? ≠ some .resetDuring := by decide

/-- No word on the port, with a host that has nothing to do and with one that takes a response. -/
theorem witness_PresentedWordWaits_no_command :
    (acceptable d3 = none ∧ d3.host.script.head? ≠ some .reset ∧ d3.host.script.head? ≠ some .resetDuring) ∧
      (acceptable (scripted none [.take] d3) = none ∧ (scripted none [.take] d3).host.script.head? ≠ some .reset ∧
        (scripted none [.take] d3).host.script.head? ≠ some .resetDuring) := by decide

/-- A word behind an unread response, and a word while BUSY = 1. -/
theorem witness_PresentedWordWaits_waiting :
    let s := { scripted (some 0x0000) [.take] d3 with resp := some ⟨true, 0⟩ }
    let t := { scripted (some 0x0000) [.take] d3 with engine := { d3.engine with busy := true } }
    (s.cmd = some 0x0000 ∧ s.resp.isSome = true ∧ s.host.script.head? ≠ some .reset ∧ s.host.script.head? ≠ some .resetDuring) ∧
      (t.cmd = some 0x0000 ∧ t.engine.busy = true ∧ t.host.script.head? ≠ some .reset ∧
        t.host.script.head? ≠ some .resetDuring) := by decide

/-- The same two with a reset next. -/
theorem witness_PresentedWordWaits_reset :
    let s := { scripted (some 0x0000) [.reset] d3 with resp := some ⟨true, 0⟩ }
    let t := { scripted (some 0x0000) [.resetDuring] d3 with engine := { d3.engine with busy := true } }
    (s.cmd = some 0x0000 ∧ s.resp.isSome = true ∧ s.host.script.head? = some .reset) ∧
      (t.cmd = some 0x0000 ∧ t.engine.busy = true ∧ t.host.script.head? = some .resetDuring) := by decide

/-- Two states that differ in the round counter and the schedule only. -/
theorem witness_TransientStateUnobservable :
    let t := { a3 with engine := { a3.engine with rc := 64, w := schedule abcBlock } }
    eraseTransient a3 = eraseTransient t ∧ a3.engine.rc ≠ t.engine.rc :=
  ⟨rfl, by decide⟩

/-- Two states with other words in H and other bytes in the buffer. -/
theorem witness_LatencyIgnoresData :
    a3.phase = (openAt 3 [0xff, 0xff, 0xff]).phase ∧ a3.len = (openAt 3 [0xff, 0xff, 0xff]).len ∧
      a3.buf ≠ (openAt 3 [0xff, 0xff, 0xff]).buf := by decide +kernel

/-- Two instances, the first of which has a message of one byte to hash, in nine steps of its own among those of the other. -/
theorem witness_InstancesAreIndependent :
    let s := scripted none (dutifulScript (hashWords [0x61])) d3
    let order := [0, 1, 0, 0, 1, 0, 0, 0, 1, 0, 0, 0]
    [s, e2][0]? = some s ∧ s.cmd = none ∧ s.resp = none ∧ s.engine.busy = false ∧
      s.host.script = dutifulScript (hashWords [0x61]) ∧ ([0x61] : List Byte).length ≤ 2 ^ 61 - 1 ∧ 3 * (1 + 2) ≤ order.count 0 :=
  ⟨rfl, rfl, rfl, rfl, rfl, by decide, by decide⟩

theorem witness_AssembledWordsAreCommands :
    assembleLine ['R', 'D', 'W', ' ', '2', '5', '5'] = .ok [.rdw 255] ∧ assemble [['R', 'D', 'W', ' ', '2', '5', '5']] = .ok [0x50ff] := by
  decide +kernel

/-- The operands 255 and 256 in decimal and in hexadecimal, with nothing and with a comment after them. -/
theorem witness_AssembledWordsAreCommands_operand :
    (['R', 'D', 'W'], Instr.rdw) ∈ operandMnemonics ∧ EndsCommand [] ∧ EndsCommand [';', 'x'] ∧
      (∀ d ∈ [2, 5, 6], d < 10) ∧ numeral 10 [2, 5, 5] = 255 ∧ numeral 10 [2, 5, 6] = 256 ∧
      (∀ d ∈ [15, 15], d < 16) ∧ numeral 16 [15, 15] = 255 ∧ numeral 16 [1, 0, 0] = 256 :=
  ⟨List.mem_cons_of_mem _ List.mem_cons_self, .inl rfl, .inr rfl, by decide, rfl, rfl, by decide, rfl, rfl⟩

theorem witness_AssembledWordsAreCommands_others :
    (['N', 'O', 'P'], Instr.nop) ∈ plainMnemonics ∧ 'a'.toNat < 128 ∧
      assemble [['N', 'O', 'P']] = .ok [0x0000] ∧ assemble [['F', 'I', 'N', 'I', 'S', 'H']] = .ok [0x3000] := by decide +kernel

theorem witness_OpcodeRowsAreDisjoint :
    (⟨"RDL", 0x8000, 0xFF00⟩ : OpcodeRow) ∈ opcodeTable ∧ (0x80ff : CmdWord) &&& 0xFF00 = 0x8000 := by decide

theorem witness_PseudoCommandExpansions : 0 < 32 ∧ 31 < 32 ∧ 0 < 64 ∧ 63 < 64 ∧ 0 < 8 ∧ 7 < 8 := by decide

end Sys2Proof.Tests
end

section
/-! SUPPORT. What a read command can answer (R46, R112 to R116), and that it does not look at the response port. -/

namespace Sys2Proof.Machine

/-- The answers of a read: a value, one of its two errors outside ERROR (R106, R118), or the ignored command in ERROR
(R107). -/
inductive ReadAnswer (s : State) : Result → Prop where
  | value (data : Word) : ReadAnswer s (succeed data s)
  | sequence : s.phase ≠ .error → ReadAnswer s (raiseError .sequence s)
  | badIndex : s.phase ≠ .error → ReadAnswer s (raiseError .badIndex s)
  | ignored : s.phase = .error → ReadAnswer s (ignored s)

theorem readAnswer_unlessError {s : State} {act : Result} (hact : s.phase ≠ .error → ReadAnswer s act) :
    ReadAnswer s (unlessError s act) := by
  by_cases hs : s.phase = .error
  · rw [unlessError_of_error hs]
    exact .ignored hs
  · rw [unlessError_of_ne hs]
    exact hact hs

theorem readAnswer_onlyInPhase {p : Phase} {s : State} {act : Result} (hs : s.phase ≠ .error) (hact : ReadAnswer s act) :
    ReadAnswer s (onlyInPhase p s act) := by
  by_cases hp : s.phase = p
  · rwa [onlyInPhase_of_eq hp]
  · rw [onlyInPhase_of_ne hp]
    exact .sequence hs

/-- A read whose last check is the one of its index. -/
theorem readAnswer_withIndex {count i : Nat} {s : State} {value : i < count → Word} (hs : s.phase ≠ .error) :
    ReadAnswer s (withIndex count i s fun hi => succeed (value hi) s) := by
  by_cases hi : i < count
  · rw [withIndex_of_lt hi]
    exact .value _
  · rw [withIndex_of_le (Nat.not_lt.mp hi)]
    exact .badIndex hs

theorem exec_readAnswer {i : Instr} (hi : IsRead i) (s : State) : ReadAnswer s (exec i s) := by
  cases i with
  | rdstat => exact .value _
  | rdw k => exact readAnswer_unlessError readAnswer_withIndex
  | rdb m => exact readAnswer_unlessError fun hs => readAnswer_onlyInPhase hs (readAnswer_withIndex hs)
  | rdh c => exact readAnswer_unlessError fun hs => readAnswer_onlyInPhase hs (readAnswer_withIndex hs)
  | rdl k => exact readAnswer_unlessError readAnswer_withIndex
  | nop | init | absorb | finish => exact hi.elim

/-- A read looks at no response, and its own response replaces the one on the port. -/
theorem exec_read_respond {i : Instr} (hi : IsRead i) (ok : Bool) (data : Word) (s : State) :
    exec i (respond ok data s) = exec i s := by
  cases i with
  | rdstat | rdw | rdb | rdh | rdl => rfl
  | nop | init | absorb | finish => exact hi.elim

theorem eq_respond_of_read_ok {i : Instr} {s t : State} {data : Word} (hi : IsRead i) (ht : exec i s = .next t)
    (hr : t.resp = some ⟨true, data⟩) : t = respond true data s := by
  have ha := exec_readAnswer hi s
  rw [ht] at ha
  cases ha with
  | value v =>
    cases hr
    rfl
  | sequence | badIndex | ignored => cases hr

theorem eq_raised_of_read_not_ok {i : Instr} {s t : State} {data : Word} (hi : IsRead i) (ht : exec i s = .next t)
    (hr : t.resp = some ⟨false, data⟩) (hs : s.phase ≠ .error) :
    (t.err = .sequence ∨ t.err = .badIndex) ∧ t = { s with phase := .error, err := t.err, resp := some ⟨false, 0⟩ } := by
  have ha := exec_readAnswer hi s
  rw [ht] at ha
  cases ha with
  | value => cases hr
  | sequence => exact ⟨.inl rfl, rfl⟩
  | badIndex => exact ⟨.inr rfl, rfl⟩
  | ignored he => exact absurd he hs

/-- Settles O41: a read that succeeds writes the response port only, which no read looks at; the other answers are those of
`ReadAnswer`. -/
theorem readsHaveNoSideEffect : Obligations.ReadsHaveNoSideEffect := by
  intro i s t ok data hi ht hr
  constructor
  · rintro rfl
    have hts : t = respond true data s := eq_respond_of_read_ok hi ht hr
    refine ⟨hts, ?_⟩
    calc exec i t = exec i s := by rw [hts, exec_read_respond hi]
      _ = .next t := ht
  · rintro rfl hs
    exact eq_raised_of_read_not_ok hi ht hr hs

end Sys2Proof.Machine
end

section
/-! SUPPORT. The fields of a command word (R56), the row of a command found by its opcode (R58), and what `decode` answers,
said once (R59, R61). -/

namespace Sys2Proof

@[simp] theorem opField_packFields (op rsv : BitVec 4) (opd : Byte) : opField (packFields op rsv opd) = op :=
  (BitVec.extractLsb'_append_eq_of_le (xhi := op ++ rsv) (xlo := opd) (by decide)).trans BitVec.extractLsb'_append_eq_left

@[simp] theorem rsvField_packFields (op rsv : BitVec 4) (opd : Byte) : rsvField (packFields op rsv opd) = rsv :=
  (BitVec.extractLsb'_append_eq_of_le (xhi := op ++ rsv) (xlo := opd) (by decide)).trans BitVec.extractLsb'_append_eq_right

@[simp] theorem opdField_packFields (op rsv : BitVec 4) (opd : Byte) : opdField (packFields op rsv opd) = opd :=
  BitVec.extractLsb'_append_eq_right

@[simp] theorem packFields_fields (w : CmdWord) : packFields (opField w) (rsvField w) (opdField w) = w := by
  have hhigh : opField w ++ rsvField w = w.extractLsb' 8 8 := BitVec.extractLsb'_append_extractLsb'_eq_extractLsb' rfl
  calc packFields (opField w) (rsvField w) (opdField w)
      = w.extractLsb' 8 8 ++ w.extractLsb' 0 8 := congrArg (· ++ opdField w) hhigh
    _ = w.extractLsb' 0 16 := BitVec.extractLsb'_append_extractLsb'_eq_extractLsb' rfl
    _ = w := BitVec.extractLsb'_eq_self

theorem eq_packFields_iff {w : CmdWord} {op rsv : BitVec 4} {opd : Byte} :
    w = packFields op rsv opd ↔ opField w = op ∧ rsvField w = rsv ∧ opdField w = opd := by
  constructor
  · rintro rfl
    simp
  · rintro ⟨rfl, rfl, rfl⟩
    simp

theorem packFields_and (op op' rsv rsv' : BitVec 4) (opd opd' : Byte) :
    packFields op rsv opd &&& packFields op' rsv' opd' = packFields (op &&& op') (rsv &&& rsv') (opd &&& opd') :=
  BitVec.and_append.trans (congrArg (· ++ (opd &&& opd')) BitVec.and_append)

/-- The opcodes of the commands without an operand: NOP, INIT, FINISH and RDSTAT (R57). -/
def plainOpcodes : List (BitVec 4) := [0x0, 0x1, 0x3, 0x4]

theorem opcode_lt (i : Instr) : (opcode i).toNat < 9 := by
  cases i <;> simp [opcode]

theorem plain_iff (i : Instr) : opcode i ∈ plainOpcodes ↔ i = .nop ∨ i = .init ∨ i = .finish ∨ i = .rdstat := by
  cases i <;> simp [opcode, plainOpcodes]

theorem operandByte_of_plain {i : Instr} (hi : opcode i ∈ plainOpcodes) : operandByte i = 0 := by
  obtain rfl | rfl | rfl | rfl := (plain_iff i).mp hi <;> rfl

theorem wellFormed_of_plain {i : Instr} (hi : opcode i ∈ plainOpcodes) : i.WellFormed := by
  obtain rfl | rfl | rfl | rfl := (plain_iff i).mp hi <;> trivial

/-- The row of a command stands in the table at the place its opcode names. -/
theorem opcodeTable_opcode (i : Instr) : opcodeTable[(opcode i).toNat]? = some (opcodeRow i) := by
  cases i <;> rfl

theorem opcodeRow_eq_of_opcode_eq {i j : Instr} (ho : opcode i = opcode j) : opcodeRow i = opcodeRow j := by
  apply Option.some.inj
  rw [← opcodeTable_opcode, ← opcodeTable_opcode, ho]

theorem opcodeRow_matchBits (i : Instr) : (opcodeRow i).matchBits = packFields (opcode i) 0 0 := by
  cases i <;> simp [opcodeRow, opcode, packFields]

/-- The mask of a row keeps the operand exactly for the commands without one. -/
theorem opcodeRow_mask (i : Instr) :
    (opcodeRow i).mask =
      packFields (.allOnes 4) (.allOnes 4) (if opcode i ∈ plainOpcodes then .allOnes 8 else 0) := by
  cases i <;> simp [opcodeRow, opcode, plainOpcodes, packFields]

/-- What it is to match a row, field by field. -/
theorem opcodeRow_matches_iff (i : Instr) (w : CmdWord) :
    (opcodeRow i).matches w ↔ opField w = opcode i ∧ rsvField w = 0 ∧ (opcode i ∈ plainOpcodes → opdField w = 0) := by
  rw [OpcodeRow.matches, opcodeRow_matchBits, opcodeRow_mask]
  conv_lhs => rw [← packFields_fields w, packFields_and, eq_packFields_iff]
  by_cases hi : opcode i ∈ plainOpcodes <;> simp [hi, -BitVec.reduceAllOnes]

/-- The answers of the decoder: an illegal word with its reason (R61), or a command of which every field is in the word
(R56, R57). -/
inductive DecodeAnswer (w : CmdWord) : Except IllegalWord Instr → Prop where
  | reservedField : rsvField w ≠ 0 → DecodeAnswer w (.error .reservedField)
  | reservedOpcode : 9 ≤ (opField w).toNat → DecodeAnswer w (.error .reservedOpcode)
  | nonzeroOperand : opField w ∈ plainOpcodes → opdField w ≠ 0 → DecodeAnswer w (.error .nonzeroOperand)
  | command (i : Instr) : rsvField w = 0 → opField w = opcode i → opdField w = operandByte i → i.WellFormed →
      DecodeAnswer w (.ok i)

theorem decodeAnswer_plainCommand {w : CmdWord} {i : Instr} (hr : rsvField w = 0) (ho : opField w = opcode i)
    (hi : opcode i ∈ plainOpcodes) : DecodeAnswer w (plainCommand (opdField w) i) := by
  unfold plainCommand
  split
  · next hd => exact .command i hr ho (hd.trans (operandByte_of_plain hi).symm) (wellFormed_of_plain hi)
  · next hd => exact .nonzeroOperand (ho ▸ hi) hd

theorem decodeAnswer_decode (w : CmdWord) : DecodeAnswer w (decode w) := by
  have opField_eq {op : BitVec 4} (ho : (opField w).toNat = op.toNat) : opField w = op := BitVec.eq_of_toNat_eq ho
  have index_eq : opdField w = BitVec.ofNat 8 (opdField w).toNat := by simp
  have index_lt : (opdField w).toNat < 256 := (opdField w).isLt
  unfold decode
  split
  · next hr => exact .reservedField hr
  · next hr =>
    have hr : rsvField w = 0 := not_not.mp hr
    split
    · next ho => exact decodeAnswer_plainCommand hr (opField_eq ho) (by decide)
    · next ho => exact decodeAnswer_plainCommand hr (opField_eq ho) (by decide)
    · next ho => exact .command _ hr (opField_eq ho) rfl trivial
    · next ho => exact decodeAnswer_plainCommand hr (opField_eq ho) (by decide)
    · next ho => exact decodeAnswer_plainCommand hr (opField_eq ho) (by decide)
    · next ho => exact .command _ hr (opField_eq ho) index_eq index_lt
    · next ho => exact .command _ hr (opField_eq ho) index_eq index_lt
    · next ho => exact .command _ hr (opField_eq ho) index_eq index_lt
    · next ho => exact .command _ hr (opField_eq ho) index_eq index_lt
    · refine .reservedOpcode ?_
      by_contra hlt
      interval_cases (opField w).toNat <;> contradiction

/-- What a decoded command says of its word (R56 to R58). -/
theorem fields_of_decode_ok {w : CmdWord} {i : Instr} (hd : decode w = .ok i) :
    rsvField w = 0 ∧ opField w = opcode i ∧ opdField w = operandByte i ∧ i.WellFormed := by
  have ha := decodeAnswer_decode w
  rw [hd] at ha
  cases ha with
  | command _ hr ho hopd hi => exact ⟨hr, ho, hopd, hi⟩

theorem matches_of_decode_ok {w : CmdWord} {i : Instr} (hd : decode w = .ok i) : (opcodeRow i).matches w := by
  obtain ⟨hr, ho, hopd, -⟩ := fields_of_decode_ok hd
  exact (opcodeRow_matches_iff i w).mpr ⟨ho, hr, fun hi => hopd.trans (operandByte_of_plain hi)⟩

/-- The three cases of R61. -/
def IsIllegal (w : CmdWord) : Prop :=
  9 ≤ (opField w).toNat ∨ rsvField w ≠ 0 ∨ (opField w ∈ plainOpcodes ∧ opdField w ≠ 0)

theorem isIllegal_of_decode_error {w : CmdWord} {e : IllegalWord} (hd : decode w = .error e) : IsIllegal w := by
  have ha := decodeAnswer_decode w
  rw [hd] at ha
  cases ha with
  | reservedField hr => exact .inr (.inl hr)
  | reservedOpcode ho => exact .inl ho
  | nonzeroOperand ho hopd => exact .inr (.inr ⟨ho, hopd⟩)

/-- A word of a row is in none of the cases of R61. -/
theorem not_isIllegal_of_matches {w : CmdWord} {i : Instr} (hm : (opcodeRow i).matches w) : ¬ IsIllegal w := by
  obtain ⟨ho, hr, hopd⟩ := (opcodeRow_matches_iff i w).mp hm
  rw [IsIllegal, ho]
  rintro (hbig | hrsv | ⟨hi, hne⟩)
  · exact absurd (opcode_lt i) (Nat.not_lt.mpr hbig)
  · exact hrsv hr
  · exact hne (hopd hi)

theorem decode_error_iff (w : CmdWord) : (∃ e, decode w = .error e) ↔ IsIllegal w := by
  constructor
  · rintro ⟨e, hd⟩
    exact isIllegal_of_decode_error hd
  · intro hw
    cases hd : decode w with
    | error e => exact ⟨e, rfl⟩
    | ok i => exact absurd hw (not_isIllegal_of_matches (matches_of_decode_ok hd))

/-- R58: the mask and match value of a row decide whether a word decodes to a command of that row. -/
theorem matches_iff_decode (i : Instr) (w : CmdWord) :
    (opcodeRow i).matches w ↔ ∃ j, decode w = .ok j ∧ opcodeRow j = opcodeRow i := by
  constructor
  · intro hm
    cases hd : decode w with
    | error e => exact absurd (isIllegal_of_decode_error hd) (not_isIllegal_of_matches hm)
    | ok j =>
      obtain ⟨-, hj, -, -⟩ := fields_of_decode_ok hd
      obtain ⟨hi, -, -⟩ := (opcodeRow_matches_iff i w).mp hm
      exact ⟨j, rfl, opcodeRow_eq_of_opcode_eq (hj.symm.trans hi)⟩
  · rintro ⟨j, hd, hrow⟩
    rw [← hrow]
    exact matches_of_decode_ok hd

end Sys2Proof
end

section
/-! PROOF. The statements on the encoding: the opcode table, the illegal words and the pseudo-commands (R58, R61, R64,
R117). -/

namespace Sys2Proof.Machine

/-- Settles O3: a row of the table is the row of a command, which `matches_iff_decode` speaks of. -/
theorem opcodeTableDecides : Obligations.OpcodeTableDecides := by
  refine ⟨rfl, fun w r hrow => ?_, fun w i hd => ?_⟩
  · obtain ⟨i, -, rfl⟩ := List.mem_map.mp hrow
    exact matches_iff_decode i w
  · obtain ⟨-, ho, hopd, -⟩ := fields_of_decode_ok hd
    exact ⟨ho.symm, hopd.symm⟩

/-- Settles O5: an illegal word goes through the gate of R105 to error entry. -/
theorem illegalWords : Obligations.IllegalWords := by
  refine ⟨decode_error_iff, fun w e s hd => ?_⟩
  rw [perform_of_error hd, execIllegal]
  constructor
  · intro hs
    rw [unlessError_of_ne hs, raiseError_def]
  · intro hs
    rw [unlessError_of_error hs, ignored_def]

/-- An expansion that reads the elements 0 .. n − 1 in order. -/
theorem getElem?_map_range {n k : Nat} (mk : Nat → Instr) (hk : k < n) : ((List.range n).map mk)[k]? = some (mk k) := by
  simp [hk]

/-- Settles O58: each read is expanded to its elements in the order of `getElem?_map_range`. -/
theorem pseudoCommandExpansions : Obligations.PseudoCommandExpansions :=
  ⟨fun _ => ⟨rfl, rfl, rfl⟩,
   rfl, fun _ hk => getElem?_map_range .rdb hk,
   rfl, fun _ hk => getElem?_map_range .rdh hk,
   rfl, fun _ hk => getElem?_map_range .rdw hk,
   rfl⟩

end Sys2Proof.Machine
end

section
/-! SUPPORT. The word operations (R65 to R70), said once each: the bits of a result, and the value of a sum. -/

namespace Sys2Proof.Machine

theorem rotr_eq_rotateRight {n : Nat} (x : Word) (hn : n < 32) : rotr x n = x.rotateRight n :=
  (BitVec.rotateRight_def.trans (by rw [Nat.mod_eq_of_lt hn]; rfl)).symm

/-- The low 32 − n bits come from n places above, the others from 32 − n places below: both are the place `(j + n) % 32`. -/
theorem getLsbD_rotr {n j : Nat} (x : Word) (hn : n < 32) (hj : j < 32) :
    (rotr x n).getLsbD j = x.getLsbD ((j + n) % 32) := by
  rw [rotr_eq_rotateRight x hn, BitVec.getLsbD_rotateRight, Nat.mod_eq_of_lt hn]
  by_cases hlow : j < 32 - n
  · have hplace : (j + n) % 32 = n + j := by omega
    rw [decide_eq_true hlow, cond_true, hplace]
  · have hplace : (j + n) % 32 = j - (32 - n) := by omega
    rw [decide_eq_false hlow, cond_false, decide_eq_true hj, Bool.true_and, hplace]

@[simp] theorem getLsbD_shr (x : Word) (n j : Nat) : (shr x n).getLsbD j = x.getLsbD (j + n) := by
  rw [shr, BitVec.getLsbD_ushiftRight, Nat.add_comm]

@[simp] theorem getLsbD_wordAnd (x y : Word) (j : Nat) : (wordAnd x y).getLsbD j = (x.getLsbD j && y.getLsbD j) :=
  BitVec.getLsbD_and

@[simp] theorem getLsbD_wordXor (x y : Word) (j : Nat) : (wordXor x y).getLsbD j = (x.getLsbD j ^^ y.getLsbD j) :=
  BitVec.getLsbD_xor

theorem wordNot_eq_not (x : Word) : wordNot x = ~~~x := BitVec.xor_allOnes

theorem getLsbD_wordNot {j : Nat} (x : Word) (hj : j < 32) : (wordNot x).getLsbD j = !x.getLsbD j := by
  rw [wordNot_eq_not, BitVec.getLsbD_not, decide_eq_true hj, Bool.true_and]

theorem sumWords_eq_sum (ts : List Word) : sumWords ts = ts.sum := List.sum_eq_foldl.symm

theorem sumWords_cons (t : Word) (ts : List Word) : sumWords (t :: ts) = t + sumWords ts := by
  rw [sumWords_eq_sum, sumWords_eq_sum, List.sum_cons]

/-- The carries out of bit 31 may be discarded at each addition or once at the end (R67). -/
theorem toNat_sumWords (ts : List Word) : (sumWords ts).toNat = (ts.map BitVec.toNat).sum % 2 ^ 32 := by
  induction ts with
  | nil => rfl
  | cons t ts ih => rw [sumWords_cons, BitVec.toNat_add, ih, Nat.add_mod_mod, List.map_cons, List.sum_cons]

theorem sumWords_perm {ts us : List Word} (hp : ts.Perm us) : sumWords ts = sumWords us := by
  rw [sumWords_eq_sum, sumWords_eq_sum, hp.sum_eq]

end Sys2Proof.Machine
end

section
/-! PROOF. The statements on the word operations (R65 to R70). -/

namespace Sys2Proof.Machine

/-- Settles O9: `toNat_sumWords` by induction over the terms, and the sum of a permuted list. -/
theorem sumIsModulo : Obligations.SumIsModulo :=
  ⟨toNat_sumWords, fun _ _ => sumWords_perm⟩

/-- Settles O7: `getLsbD_rotr` at the amounts the rule allows. -/
theorem rotrIsCircular : Obligations.RotrIsCircular :=
  fun x _ _ hn _ hj => getLsbD_rotr x (Nat.lt_succ_of_le hn) hj

/-- Settles O8: above bit 31 − n a shift reads places beyond the word, which are 0. -/
theorem wordOpsBitwise : Obligations.WordOpsBitwise := by
  constructor
  · intro x n _ hn j _
    rw [getLsbD_shr]
    split
    · rfl
    · next hhigh => exact BitVec.getLsbD_of_ge x (j + n) (by omega)
  · intro x y j hj
    exact ⟨getLsbD_wordAnd x y j, getLsbD_wordXor x y j, getLsbD_wordNot x hj⟩

end Sys2Proof.Machine
end

section
/-! SUPPORT. Padding as a function of the message: the number of zero bytes (R71) and the cut into blocks (R74), said once
each. -/

namespace Sys2Proof.Machine

theorem padZeros_le (length : Nat) : padZeros length ≤ 63 := by
  unfold padZeros
  omega

theorem length_add_padZeros_mod (length : Nat) : (length + 1 + padZeros length) % 64 = 56 := by
  unfold padZeros
  omega

/-- Two numbers of zero bytes that both fit differ by a multiple of 64, and `padZeros` is below 64. -/
theorem padZeros_le_of_mod {length k : Nat} (hk : (length + 1 + k) % 64 = 56) : padZeros length ≤ k := by
  have hlt := padZeros_le length
  have hmod := length_add_padZeros_mod length
  omega

theorem toNat_bitLengthField {length : Nat} (hl : length ≤ 2 ^ 61 - 1) :
    (BitVec.ofNat 64 (8 * length)).toNat = 8 * length := by
  have hlt : 8 * length < 2 ^ 64 := by omega
  rw [BitVec.toNat_ofNat, Nat.mod_eq_of_lt hlt]

@[simp] theorem length_blocks (p : List Byte) : (blocks p).length = p.length / 64 := by
  simp [blocks]

theorem getElem?_blocks {p : List Byte} {k : Nat} (hk : k < p.length / 64) : (blocks p)[k]? = some (blockAt p k) := by
  simp [blocks, hk]

/-- A block that ends within the sequence reads no position past its end. -/
theorem toList_blockAt {p : List Byte} {k : Nat} (hk : 64 * (k + 1) ≤ p.length) :
    (blockAt p k).toList = (p.drop (64 * k)).take 64 := by
  apply List.ext_getElem
  · rw [Vector.length_toList, List.length_take, List.length_drop]
    omega
  · intro j hj _
    have hj : j < 64 := by simpa using hj
    have hin : 64 * k + j < p.length := by omega
    simp [blockAt, hin]

/-- The first n blocks put together are the first 64·n bytes. -/
theorem flatten_firstBlocks {p : List Byte} {n : Nat} (hn : 64 * n ≤ p.length) :
    ((List.range n).map fun k => (blockAt p k).toList).flatten = p.take (64 * n) := by
  induction n with
  | zero => simp
  | succ n ih =>
    have hfirst : 64 * n ≤ p.length := by omega
    calc ((List.range (n + 1)).map fun k => (blockAt p k).toList).flatten
        = ((List.range n).map fun k => (blockAt p k).toList).flatten ++ (blockAt p n).toList := by
          simp [List.range_succ]
      _ = p.take (64 * n) ++ (p.drop (64 * n)).take 64 := by rw [ih hfirst, toList_blockAt hn]
      _ = p.take (64 * (n + 1)) := List.take_add.symm

/-- The blocks put together are the whole blocks' bytes; a rest below 64 bytes is in no block. -/
theorem flatten_blocks (p : List Byte) : ((blocks p).map Vector.toList).flatten = p.take (64 * (p.length / 64)) := by
  rw [blocks, List.map_map]
  exact flatten_firstBlocks (Nat.mul_div_le p.length 64)

end Sys2Proof.Machine
end

section
/-! PROOF. The statements on padding (R71, R74). -/

namespace Sys2Proof.Machine

/-- Settles O22: `toList_blockAt` for each block, and `flatten_blocks` where there is no rest. -/
theorem blocksCutTheMessage : Obligations.BlocksCutTheMessage := by
  intro p n hp
  have hn : p.length / 64 = n := by omega
  refine ⟨(length_blocks p).trans hn, ?_, fun k hk => ?_⟩
  · rw [flatten_blocks, hn, ← hp, List.take_length]
  · have hend : 64 * (k + 1) ≤ p.length := by omega
    rw [getElem?_blocks (hn ▸ hk), Option.map_some, toList_blockAt hend]

/-- Settles O20: `padZeros` is the least number that fits, and the bit length stays below 2^64. -/
theorem padUsesLeastZeroFill : Obligations.PadUsesLeastZeroFill :=
  fun m hm => ⟨padZeros m.length, _, rfl, toNat_bitLengthField hm, padZeros_le _, length_add_padZeros_mod _,
    fun _ hlt hk => absurd (padZeros_le_of_mod hk) (Nat.not_le.mpr hlt)⟩

end Sys2Proof.Machine
end

section
/-! SUPPORT. The sigma functions bit by bit (R79, R80, R85, R86), and the schedule word by word (R81, R82). -/

namespace Sys2Proof.Machine

/-- The part the four sigma functions share: two rotations of x, and a third word that differs among them. -/
theorem getLsbD_wordXor_rotr_rotr {n m j : Nat} (x z : Word) (hn : n < 32) (hm : m < 32) (hj : j < 32) :
    (wordXor (wordXor (rotr x n) (rotr x m)) z).getLsbD j =
      (x.getLsbD ((j + n) % 32) ^^ x.getLsbD ((j + m) % 32) ^^ z.getLsbD j) := by
  rw [getLsbD_wordXor, getLsbD_wordXor, getLsbD_rotr x hn hj, getLsbD_rotr x hm hj]

/-- A shift reads zeros at the places beyond the word. -/
theorem getLsbD_shr_eq_and (x : Word) (n j : Nat) :
    (shr x n).getLsbD j = (decide (j + n < 32) && x.getLsbD (j + n)) := by
  rw [getLsbD_shr, eq_comm, Bool.and_eq_right_iff_imp]
  exact fun hbit => decide_eq_true (BitVec.lt_of_getLsbD hbit)

theorem getElem_loadWords (b : Block) (t : Fin 16) : (loadWords b)[t.val] = blockWord b t := by
  rw [loadWords, Vector.getElem_ofFn, dif_pos t.isLt]

theorem expandWords_succ (w : Schedule) {n : Nat} (hn : n + 1 ≤ 48) :
    expandWords w (n + 1) hn =
      (expandWords w n (Nat.le_of_succ_le hn)).set (16 + n)
        (nextWord (expandWords w n (Nat.le_of_succ_le hn)) (16 + n) (by omega)) (by omega) := rfl

/-- The words are written in ascending order, so a word below W[16 + n] is not written again after the first n. -/
theorem getElem_expandWords_of_le (w : Schedule) {n m j : Nat} (hnm : n ≤ m) (hm : m ≤ 48) (hj : j < 16 + n) :
    (expandWords w m hm)[j] = (expandWords w n (hnm.trans hm))[j] := by
  induction m, hnm using Nat.le_induction with
  | base => rfl
  | succ m hnm ih =>
    have hne : 16 + m ≠ j := by omega
    rw [expandWords_succ, Vector.getElem_set_ne _ _ hne, ih]

theorem getElem_schedule_eq_expandWords (b : Block) {n j : Nat} (hn : n ≤ 48) (hj : j < 16 + n) :
    (schedule b)[j] = (expandWords (loadWords b) n hn)[j] :=
  getElem_expandWords_of_le (loadWords b) hn (Nat.le_refl 48) hj

/-- R81: `expandWords` writes none of the loaded words. -/
theorem getElem_schedule_of_lt_16 (b : Block) (t : Fin 16) : (schedule b)[t.val] = blockWord b t :=
  (getElem_schedule_eq_expandWords b (Nat.zero_le 48) t.isLt).trans (getElem_loadWords b t)

theorem nextWord_eq_add (w : Schedule) {i : Nat} (hi : 16 ≤ i ∧ i < 64) :
    nextWord w i hi = w[i - 16] + smallSigma0 w[i - 15] + w[i - 7] + smallSigma1 w[i - 2] := by
  simp only [nextWord, sumWords_eq_sum, List.sum_cons, List.sum_nil, add_zero, add_assoc]

/-- The recurrence for W[i] reads only words below W[i]. -/
theorem nextWord_congr {w w' : Schedule} {i : Nat} (hi : 16 ≤ i ∧ i < 64)
    (hw : ∀ j, (hj : j < i) → w[j] = w'[j]) : nextWord w i hi = nextWord w' i hi := by
  rw [nextWord, nextWord, hw (i - 16) (by omega), hw (i - 15) (by omega), hw (i - 7) (by omega), hw (i - 2) (by omega)]

/-- R82: the word written at its turn is the one the recurrence gives over the finished schedule. -/
theorem getElem_schedule_eq_nextWord (b : Block) {i : Nat} (hi : 16 ≤ i ∧ i < 64) :
    (schedule b)[i] = nextWord (schedule b) i hi := by
  obtain ⟨n, rfl⟩ := Nat.exists_eq_add_of_le hi.1
  have hn : n < 48 := by omega
  calc (schedule b)[16 + n]
      = (expandWords (loadWords b) (n + 1) hn)[16 + n] := getElem_schedule_eq_expandWords b hn (Nat.lt_succ_self _)
    _ = nextWord (expandWords (loadWords b) n hn.le) (16 + n) hi := by
      rw [expandWords_succ, Vector.getElem_set_self]
    _ = nextWord (schedule b) (16 + n) hi :=
      nextWord_congr hi fun _ hj => (getElem_schedule_eq_expandWords b hn.le hj).symm

end Sys2Proof.Machine
end

section
/-! PROOF. The statements on the sigma functions and the message schedule (R79 to R82, R85, R86). -/

namespace Sys2Proof.Machine

/-- Settles O10: two rotations by `getLsbD_wordXor_rotr_rotr`, then a shift in σ and a third rotation in Σ. -/
theorem sigmaBits : Obligations.SigmaBits := by
  intro x j hj
  refine ⟨?_, ?_, ?_, ?_⟩
  · rw [smallSigma0, getLsbD_wordXor_rotr_rotr x _ (by decide) (by decide) hj, getLsbD_shr_eq_and]
  · rw [smallSigma1, getLsbD_wordXor_rotr_rotr x _ (by decide) (by decide) hj, getLsbD_shr_eq_and]
  · rw [bigSigma1, getLsbD_wordXor_rotr_rotr x _ (by decide) (by decide) hj, getLsbD_rotr x (by decide) hj]
  · rw [bigSigma0, getLsbD_wordXor_rotr_rotr x _ (by decide) (by decide) hj, getLsbD_rotr x (by decide) hj]

/-- Settles O12: the loaded words stay, and `blockWord` puts its four bytes together as R38 does. -/
theorem scheduleLoadsBlock : Obligations.ScheduleLoadsBlock :=
  getElem_schedule_of_lt_16

/-- Settles O13: `getElem_schedule_eq_nextWord` with the distances of R82 counted from W[n]. -/
theorem scheduleRecurrence : Obligations.ScheduleRecurrence := by
  intro b n
  have hi : 16 ≤ n.val + 16 ∧ n.val + 16 < 64 := by omega
  rw [getElem_schedule_eq_nextWord b hi, nextWord_eq_add]
  simp only [Nat.add_sub_cancel, Nat.reduceSubDiff]

end Sys2Proof.Machine
end

section
/-! SUPPORT. The bits of Ch and Maj (R87, R88), and the sums of a round and of the final addition (R89 to R92), said once
each. -/

namespace Sys2Proof.Machine

/-- R87: one of the two products is 0 at each place, so their XOR is the other. -/
theorem getLsbD_choose {j : Nat} (e f g : Word) (hj : j < 32) :
    (choose e f g).getLsbD j = if e.getLsbD j then f.getLsbD j else g.getLsbD j := by
  rw [choose, getLsbD_wordXor, getLsbD_wordAnd, getLsbD_wordAnd, getLsbD_wordNot e hj]
  cases e.getLsbD j with
  | true => simp
  | false => simp

theorem getLsbD_majority (a b c : Word) (j : Nat) :
    (majority a b c).getLsbD j =
      (a.getLsbD j && b.getLsbD j ^^ a.getLsbD j && c.getLsbD j ^^ b.getLsbD j && c.getLsbD j) := by
  simp only [majority, getLsbD_wordXor, getLsbD_wordAnd]

/-- R88 at one bit place: two 1s make one product 1 and three make all three, both an odd number; fewer make none. -/
theorem xor_of_ands_iff_two_le_countP :
    ∀ p q r : Bool, ((p && q ^^ p && r ^^ q && r) = true) ↔ 2 ≤ [p, q, r].countP id := by
  decide

theorem sumWords_pair (x y : Word) : sumWords [x, y] = x + y := by
  rw [sumWords_eq_sum, List.sum_pair]

theorem temp1_eq_add (v : WorkingVars) (k w : Word) :
    temp1 v k w = v.h + bigSigma1 v.e + choose v.e v.f v.g + k + w := by
  simp only [temp1, sumWords_eq_sum, List.sum_cons, List.sum_nil, add_zero, add_assoc]

theorem temp2_eq_add (v : WorkingVars) : temp2 v = bigSigma0 v.a + majority v.a v.b v.c :=
  sumWords_pair _ _

theorem roundStep_eq (i : Fin 64) (w : Word) (v : WorkingVars) :
    roundStep i w v =
      { a := temp1 v roundConstants[i.val] w + temp2 v, b := v.a, c := v.b, d := v.c,
        e := v.d + temp1 v roundConstants[i.val] w, f := v.e, g := v.f, h := v.g } := by
  simp only [roundStep, sumWords_pair, Fin.getElem_fin]

theorem foldVars_eq (h : HashState) (v : WorkingVars) :
    foldVars h v =
      #v[h[0] + v.a, h[1] + v.b, h[2] + v.c, h[3] + v.d, h[4] + v.e, h[5] + v.f, h[6] + v.g, h[7] + v.h] := by
  simp only [foldVars, sumWords_pair]

/-- The engine's variables change by the round its counter names (R91). -/
theorem ticks_start_succ_vars (h : HashState) (b : Block) (i : Fin 64) :
    ((Engine.start h b).ticks (i.val + 1)).vars =
      roundStep i (schedule b)[i.val] ((Engine.start h b).ticks i.val).vars := by
  rw [ticks_start h b (i.val + 1) i.isLt, ticks_start h b i.val i.isLt.le]
  rfl

theorem compress_eq_foldVars_run (h : HashState) (b : Block) : compress h b = foldVars h (Engine.run h b).vars := by
  rw [run_eq, compress]

/-- R95: the ROM word by word against Mathlib's integer cube root. -/
theorem toNat_roundConstants :
    ∀ i : Fin 64, roundConstants[i.val].toNat = Nat.nthRoot 3 (romPrimes[i.val] * 2 ^ 96) % 2 ^ 32 := by
  decide +kernel

end Sys2Proof.Machine
end

section
/-! PROOF. The statements on the compressor and its constants (R87 to R92, R95). -/

namespace Sys2Proof.Machine

/-- Settles O11: `getLsbD_choose`, and the products of Maj counted at one bit place. -/
theorem chooseAndMajorityBits : Obligations.ChooseAndMajorityBits := by
  intro x y z j hj
  refine ⟨getLsbD_choose x y z hj, ?_⟩
  rw [getLsbD_majority]
  exact xor_of_ands_iff_two_le_countP _ _ _

/-- Settles O15: the sums of `roundStep_eq`, written out. -/
theorem roundEquations : Obligations.RoundEquations := by
  intro i w v
  refine ⟨temp1_eq_add v _ w, temp2_eq_add v, ?_⟩
  rw [roundStep_eq, temp1_eq_add, temp2_eq_add]

/-- Settles O16: the sequence is the one the engine's variables run through, of which `compress` adds the last. -/
theorem compressIsSixtyFourRounds : Obligations.CompressIsSixtyFourRounds := by
  intro h b
  refine ⟨fun n => ((Engine.start h b).ticks n).vars, rfl, ticks_start_succ_vars h b, ?_⟩
  rw [compress_eq_foldVars_run, foldVars_eq, Engine.run]

/-- Settles O17: the bounds are those of an integer cube root, whose low 32 bits `toNat_roundConstants` finds in the ROM. -/
theorem roundConstantsFromCubeRoots : Obligations.RoundConstantsFromCubeRoots :=
  fun i => ⟨Nat.nthRoot 3 (romPrimes[i.val] * 2 ^ 96), Nat.pow_nthRoot_le (.inl three_ne_zero),
    Nat.lt_pow_nthRoot_add_one three_ne_zero _, toNat_roundConstants i⟩

end Sys2Proof.Machine
end

section
/-! SUPPORT. The digest formatter read off at one place (R98 to R100): a byte of the digest, a character of its hexadecimal
form, the code of a hexadecimal digit, and the digest as the state words' bytes in a row. -/

namespace Sys2Proof.Machine

theorem getElem_be32Bytes {j : Nat} (x : Word) (hj : j < 4) : (be32Bytes x)[j] = x.extractLsb' (24 - 8 * j) 8 := by
  match j, hj with
  | 0, _ | 1, _ | 2, _ | 3, _ => rfl

theorem getElem_formatDigest {m : Nat} (h : HashState) (hm : m < 32) :
    (formatDigest h)[m] = h[m / 4].extractLsb' (24 - 8 * (m % 4)) 8 := by
  simp only [formatDigest, Vector.getElem_ofFn]

theorem getElem_hexDigest {c : Nat} (h : HashState) (hc : c < 64) :
    (hexDigest h)[c] = hexDigit ((formatDigest h)[c / 2].extractLsb' (4 - 4 * (c % 2)) 4) := by
  simp only [hexDigest, Vector.getElem_ofFn]

/-- The sum of R99 does not wrap: 0x57 + 15 is below 256. -/
theorem toNat_hexDigit (v : BitVec 4) : (hexDigit v).toNat = (if v.toNat < 10 then 0x30 else 0x57) + v.toNat := by
  unfold hexDigit
  split
  · bv_omega
  · bv_omega

theorem toList_flatten {α : Type} {n m : Nat} (xs : Vector (Vector α n) m) :
    xs.flatten.toList = (xs.toList.map Vector.toList).flatten := by
  rw [Vector.flatten, Vector.toList_mk, Array.toList_flatten, Array.toList_map, List.map_map]
  rfl

theorem formatDigest_eq_flatten (h : HashState) : formatDigest h = (h.map be32Bytes).flatten := by
  ext m hm
  rw [getElem_formatDigest h hm, Vector.getElem_flatten, Vector.getElem_map, getElem_be32Bytes]

theorem toList_formatDigest (h : HashState) :
    (formatDigest h).toList = (h.toList.map fun x => (be32Bytes x).toList).flatten := by
  rw [formatDigest_eq_flatten, toList_flatten, Vector.toList_map, List.map_map]
  rfl

end Sys2Proof.Machine
end

section
/-! PROOF. The statements on the digest formatter (R98 to R100, R40). -/

namespace Sys2Proof.Machine

/-- Settles O25: `toList_formatDigest`, and byte 4k + j is byte j of word k because j is below 4. -/
theorem digestIsBigEndianWords : Obligations.DigestIsBigEndianWords := by
  intro h
  refine ⟨toList_formatDigest h, fun k j => ?_⟩
  have hk : (4 * k.val + j.val) / 4 = k.val := by omega
  have hj : (4 * k.val + j.val) % 4 = j.val := by omega
  simp only [getElem_formatDigest, hk, hj]

/-- Settles O26: the two cases of `toNat_hexDigit`, and `getElem_hexDigest` at an even and at an odd place. -/
theorem hexDigestCharacters : Obligations.HexDigestCharacters := by
  refine ⟨fun v => ⟨fun hv => ?_, fun hv => ?_⟩, fun h m => ⟨?_, ?_⟩⟩
  · rw [toNat_hexDigit, if_pos hv]
  · rw [toNat_hexDigit, if_neg hv.not_gt]
  · have hm : 2 * m.val / 2 = m.val := by omega
    simp only [getElem_hexDigest, hm, Nat.mul_mod_right]
  · have hm : (2 * m.val + 1) / 2 = m.val := by omega
    simp only [getElem_hexDigest, hm, Nat.mul_add_mod]

end Sys2Proof.Machine
end

section
/-! SUPPORT. What each command answers (R105 to R116), said once a command and case: the gate in ERROR, the phase check, the
index check, and the act itself. -/

namespace Sys2Proof.Machine

/-- R107: outside the three commands that act in every phase, a command meets the gate of R105 first. -/
theorem exec_of_error {i : Instr} {s : State} (hs : s.phase = .error) (hnop : i ≠ .nop) (hinit : i ≠ .init)
    (hstat : i ≠ .rdstat) : exec i s = ignored s := by
  cases i with
  | nop => exact absurd rfl hnop
  | init => exact absurd rfl hinit
  | rdstat => exact absurd rfl hstat
  | absorb | finish | rdw | rdb | rdh | rdl => exact unlessError_of_error hs _

theorem execIllegal_of_error {s : State} (hs : s.phase = .error) : execIllegal s = ignored s :=
  unlessError_of_error hs _

theorem ne_error_of_absorb {s : State} (hs : s.phase = .absorb) : s.phase ≠ .error := by
  simp [hs]

theorem ne_error_of_done {s : State} (hs : s.phase = .done) : s.phase ≠ .error := by
  simp [hs]

section phaseCheck
variable {s : State}

/-- A command of one phase acts in it. -/
theorem unlessError_onlyInPhase_of_eq {p : Phase} (hs : s.phase = p) (hp : p ≠ .error) (act : Result) :
    unlessError s (onlyInPhase p s act) = act := by
  rw [unlessError_of_ne (hs ▸ hp), onlyInPhase_of_eq hs]

/-- R106: a command of another phase raises SEQUENCE, whatever its operand. -/
theorem unlessError_onlyInPhase_of_ne {p : Phase} (hs : s.phase ≠ p) (hp : s.phase ≠ .error) (act : Result) :
    unlessError s (onlyInPhase p s act) = raiseError .sequence s := by
  rw [unlessError_of_ne hp, onlyInPhase_of_ne hs]

end phaseCheck

section streamCommands
variable {s : State}

theorem exec_absorb_of_ne_maxLen (d : Byte) (hs : s.phase = .absorb) (hl : s.len ≠ maxLen) :
    exec (.absorb d) s = succeed 0 (padAbsorb d s) :=
  (unlessError_onlyInPhase_of_eq hs (by decide) _).trans (if_neg hl)

theorem exec_absorb_of_maxLen (d : Byte) (hs : s.phase = .absorb) (hl : s.len = maxLen) :
    exec (.absorb d) s = raiseError .lenOverflow s :=
  (unlessError_onlyInPhase_of_eq hs (by decide) _).trans (if_pos hl)

theorem exec_absorb_of_done (d : Byte) (hs : s.phase = .done) : exec (.absorb d) s = raiseError .sequence s :=
  unlessError_onlyInPhase_of_ne (by simp [hs]) (ne_error_of_done hs) _

theorem exec_finish_of_absorb (hs : s.phase = .absorb) :
    exec .finish s = succeed 0 { padFinal s with phase := .done } :=
  unlessError_onlyInPhase_of_eq hs (by decide) _

theorem exec_finish_of_done (hs : s.phase = .done) : exec .finish s = raiseError .sequence s :=
  unlessError_onlyInPhase_of_ne (by simp [hs]) (ne_error_of_done hs) _

end streamCommands

section readCommands
variable {s : State} {i : Nat}

theorem exec_rdw_of_lt (hs : s.phase ≠ .error) (hi : i < 8) : exec (.rdw i) s = succeed s.h[i] s :=
  (unlessError_of_ne hs _).trans (withIndex_of_lt hi s _)

theorem exec_rdw_of_le (hs : s.phase ≠ .error) (hi : 8 ≤ i) : exec (.rdw i) s = raiseError .badIndex s :=
  (unlessError_of_ne hs _).trans (withIndex_of_le hi s _)

theorem exec_rdb_of_lt (hs : s.phase = .done) (hi : i < 32) :
    exec (.rdb i) s = succeed (zextByte (formatDigest s.h)[i]) s :=
  (unlessError_onlyInPhase_of_eq hs (by decide) _).trans (withIndex_of_lt hi s _)

theorem exec_rdb_of_le (hs : s.phase = .done) (hi : 32 ≤ i) : exec (.rdb i) s = raiseError .badIndex s :=
  (unlessError_onlyInPhase_of_eq hs (by decide) _).trans (withIndex_of_le hi s _)

theorem exec_rdb_of_absorb (hs : s.phase = .absorb) : exec (.rdb i) s = raiseError .sequence s :=
  unlessError_onlyInPhase_of_ne (by simp [hs]) (ne_error_of_absorb hs) _

theorem exec_rdh_of_lt (hs : s.phase = .done) (hi : i < 64) :
    exec (.rdh i) s = succeed (zextByte (hexDigest s.h)[i]) s :=
  (unlessError_onlyInPhase_of_eq hs (by decide) _).trans (withIndex_of_lt hi s _)

theorem exec_rdh_of_le (hs : s.phase = .done) (hi : 64 ≤ i) : exec (.rdh i) s = raiseError .badIndex s :=
  (unlessError_onlyInPhase_of_eq hs (by decide) _).trans (withIndex_of_le hi s _)

theorem exec_rdh_of_absorb (hs : s.phase = .absorb) : exec (.rdh i) s = raiseError .sequence s :=
  unlessError_onlyInPhase_of_ne (by simp [hs]) (ne_error_of_absorb hs) _

theorem exec_rdl_of_lt (hs : s.phase ≠ .error) (hi : i < 2) : exec (.rdl i) s = succeed (bitLengthHalf i s) s :=
  (unlessError_of_ne hs _).trans (withIndex_of_lt hi s _)

theorem exec_rdl_of_le (hs : s.phase ≠ .error) (hi : 2 ≤ i) : exec (.rdl i) s = raiseError .badIndex s :=
  (unlessError_of_ne hs _).trans (withIndex_of_le hi s _)

end readCommands

end Sys2Proof.Machine
end

section
/-! SUPPORT. The values the commands write and return: the word of a command with an operand (R56, R57), STATUS and LENGTH
(R26, R27), the range of a hexadecimal character (R99), and the blocks ABSORB and FINISH compress (R75, R76). -/

namespace Sys2Proof

/-- The operand of a command stands below its opcode's match value. -/
theorem packFields_eq_or (op rsv : BitVec 4) (opd : Byte) :
    packFields op rsv opd = packFields op rsv 0 ||| opd.setWidth 16 := by
  have hopd : opd.setWidth 16 = packFields 0 0 opd := BitVec.setWidth_eq_append (by decide)
  rw [hopd, packFields, packFields, packFields, BitVec.or_append]
  simp

/-- The word of a command with an index that fits the operand field. -/
theorem packFields_index {n : Nat} (op : BitVec 4) (hn : n < 256) :
    packFields op 0 (BitVec.ofNat 8 n) = packFields op 0 0 ||| BitVec.ofNat 16 n := by
  rw [packFields_eq_or, BitVec.setWidth_ofNat_of_le_of_lt (by decide) hn]

end Sys2Proof

namespace Sys2Proof.Machine

/-- The three fields of STATUS do not overlap, so their OR is their sum (R26). -/
theorem toNat_status (s : State) :
    (status s).toNat = (bcnt s).toNat * 2 ^ 8 + (s.err.code.toNat * 2 ^ 4 + s.phase.code.toNat) := by
  have hb := (bcnt s).isLt
  have he := s.err.code.isLt
  have hp : s.phase.code.toNat < 2 ^ 4 := s.phase.code.isLt.trans (by decide)
  have hlow : s.err.code.toNat * 2 ^ 4 + s.phase.code.toNat < 2 ^ 8 := by omega
  calc (status s).toNat
      = (bcnt s).toNat * 2 ^ 8 ||| (s.err.code.toNat * 2 ^ 4 ||| s.phase.code.toNat) := by
        simp (disch := omega) [status, Nat.or_assoc, Nat.shiftLeft_eq, Nat.mod_eq_of_lt]
    _ = (bcnt s).toNat * 2 ^ 8 + (s.err.code.toNat * 2 ^ 4 + s.phase.code.toNat) := by
        simp only [← Nat.shiftLeft_eq] at hlow ⊢
        rw [← Nat.shiftLeft_add_eq_or_of_lt hp, ← Nat.shiftLeft_add_eq_or_of_lt hlow]

/-- A field of STATUS is read off the sum. -/
theorem extractLsb'_status_eq {s : State} {start len : Nat} {field : BitVec len}
    (hf : ((bcnt s).toNat * 2 ^ 8 + (s.err.code.toNat * 2 ^ 4 + s.phase.code.toNat)) / 2 ^ start % 2 ^ len =
      field.toNat) :
    (status s).extractLsb' start len = field := by
  apply BitVec.eq_of_toNat_eq
  rw [BitVec.extractLsb'_toNat, toNat_status, Nat.shiftRight_eq_div_pow, hf]

/-- STATUS field by field, reserved bits included (R26). -/
theorem status_fields (s : State) :
    (status s).extractLsb' 0 2 = s.phase.code ∧ (status s).extractLsb' 2 2 = 0#2 ∧
      (status s).extractLsb' 4 4 = s.err.code ∧ (status s).extractLsb' 8 6 = bcnt s ∧
      (status s).extractLsb' 14 18 = 0#18 := by
  have hb := (bcnt s).isLt
  have he := s.err.code.isLt
  have hp := s.phase.code.isLt
  refine ⟨extractLsb'_status_eq ?_, extractLsb'_status_eq ?_, extractLsb'_status_eq ?_, extractLsb'_status_eq ?_,
    extractLsb'_status_eq ?_⟩
  · omega
  · rw [BitVec.toNat_ofNat]
    omega
  · omega
  · omega
  · rw [BitVec.toNat_ofNat]
    omega

/-- After INIT and after reset STATUS is 0 (R109, R133). -/
theorem status_eq_zero {s : State} (hl : s.len = 0) (he : s.err = .noError) (hp : s.phase = .absorb) : status s = 0 := by
  rw [status, bcnt, hl, he, hp]
  rfl

theorem toNat_bitLength (s : State) : (bitLength s).toNat = 8 * s.len.toNat := by
  have hlt := s.len.isLt
  rw [bitLength_eq, BitVec.toNat_ofNat, Nat.mod_eq_of_lt (by omega)]

theorem bitLengthHalf_zero (s : State) : bitLengthHalf 0 s = BitVec.ofNat 32 (8 * s.len.toNat % 2 ^ 32) := by
  apply BitVec.eq_of_toNat_eq
  rw [bitLengthHalf, if_pos rfl, BitVec.extractLsb'_toNat, toNat_bitLength, BitVec.toNat_ofNat, Nat.mod_mod,
    Nat.shiftRight_zero]

theorem bitLengthHalf_one (s : State) : bitLengthHalf 1 s = BitVec.ofNat 32 (8 * s.len.toNat / 2 ^ 32) := by
  apply BitVec.eq_of_toNat_eq
  rw [bitLengthHalf, if_neg one_ne_zero, BitVec.extractLsb'_toNat, toNat_bitLength, BitVec.toNat_ofNat,
    Nat.shiftRight_eq_div_pow]

/-- R99, R115: a hexadecimal digit character is one of 0..9 and a..f. -/
theorem hexDigit_range (v : BitVec 4) :
    (0x30 ≤ (hexDigit v).toNat ∧ (hexDigit v).toNat ≤ 0x39) ∨ (0x61 ≤ (hexDigit v).toNat ∧ (hexDigit v).toNat ≤ 0x66) := by
  have hv := v.isLt
  rw [toNat_hexDigit]
  split
  · next hlt => exact .inl (by omega)
  · next hge => exact .inr (by omega)

theorem bufWith_eq_set (d : Byte) (s : State) :
    bufWith d s = s.buf.set (s.len.toNat % 64) d (Nat.mod_lt _ (by decide)) := by
  simp only [bufWith, bcnt_toNat]

theorem getElem_bufWith {j : Nat} (d : Byte) (s : State) (hj : j < 64) :
    (bufWith d s)[j] = if j = s.len.toNat % 64 then d else s.buf[j] := by
  rw [bufWith, Vector.getElem_set, bcnt_toNat]
  exact if_congr eq_comm rfl rfl

theorem getElem_withLengthField_of_lt {j : Nat} (b : Block) (lb : BitVec 64) (hj : j < 56) :
    (withLengthField b lb)[j] = b[j] := by
  simp only [withLengthField, Vector.getElem_ofFn, dif_neg (Nat.not_le.mpr hj), Fin.getElem_fin]

theorem getElem_withLengthField_add {j : Nat} (b : Block) (lb : BitVec 64) (hj : j < 8) :
    (withLengthField b lb)[56 + j] = (be64Bytes lb)[j] := by
  simp only [withLengthField, Vector.getElem_ofFn, dif_pos (Nat.le_add_right 56 j), Nat.add_sub_cancel_left]

theorem finalBlocks_of_le {s : State} (hn : s.len.toNat % 64 ≤ 55) :
    finalBlocks s = [withLengthField (bufWith 0x80 s) (bitLength s)] :=
  if_pos (by rwa [bcnt_toNat])

theorem finalBlocks_of_gt {s : State} (hn : 55 < s.len.toNat % 64) :
    finalBlocks s = [bufWith 0x80 s, withLengthField (Vector.replicate 64 0) (bitLength s)] :=
  if_neg (by rw [bcnt_toNat]; omega)

end Sys2Proof.Machine
end

section
/-! PROOF. The statements on the commands (R107 to R116). -/

namespace Sys2Proof.Machine

/-- Settles O30: the cases of `padAbsorb` at BCNT below 63 and at 63, and the three errors. -/
theorem absorbTakesInOneByte : Obligations.AbsorbTakesInOneByte := by
  intro d s
  refine ⟨packFields_eq_or 2 0 d, fun hs hl hn => ?_, fun hs hl hn => ?_, fun hs hl => ?_, exec_absorb_of_done d,
    fun hs => exec_of_error hs nofun nofun nofun⟩
  · have hne : bcnt s ≠ 63 := fun hb => hn.ne ((bcnt_eq_63_iff s).mp hb)
    rw [exec_absorb_of_ne_maxLen d hs (mt (len_eq_maxLen_iff s).mp hl), padAbsorb_of_ne d hne, bufWith_eq_set]
    rfl
  · have hbuf : bufWith d s = s.buf.set 63 d := by simp only [bufWith_eq_set, hn]
    refine ⟨_, exec_absorb_of_ne_maxLen d hs (mt (len_eq_maxLen_iff s).mp hl), ?_⟩
    rw [padAbsorb_of_eq d ((bcnt_eq_63_iff s).mpr hn), hbuf]
    simp [hs]
  · exact exec_absorb_of_maxLen d hs ((len_eq_maxLen_iff s).mpr hl)

/-- The registers and ports FINISH leaves, but for H (R111). -/
theorem finished_fields (s : State) :
    let t := respond true 0 { padFinal s with phase := .done }
    t.buf = Vector.replicate 64 0 ∧ t.len = s.len ∧ t.phase = .done ∧ t.err = s.err ∧ t.engine.busy = false ∧
      t.cmd = s.cmd ∧ t.resp = some ⟨true, 0⟩ ∧ t.host = s.host := by
  simp [(padFinal_engine s).1]

/-- Settles O31: H is the compression of `finalBlocks`, one or two blocks as BCNT says; all else is `finished_fields`. -/
theorem finishPadsAndCompresses : Obligations.FinishPadsAndCompresses := by
  refine ⟨rfl, fun s => ⟨fun hs hn => ?_, fun hs hn => ?_, exec_finish_of_done,
    fun hs => exec_of_error hs nofun nofun nofun⟩⟩
  · refine ⟨_, withLengthField (bufWith 0x80 s) (bitLength s), exec_finish_of_absorb hs, fun j => ?_, fun j => ?_, ?_,
      finished_fields s⟩
    · rw [getElem_withLengthField_of_lt _ _ j.isLt, getElem_bufWith]
    · rw [getElem_withLengthField_add _ _ j.isLt, bitLength_eq]
    · simp [finalBlocks_of_le hn, compressBlocks]
  · refine ⟨_, bufWith 0x80 s, withLengthField (Vector.replicate 64 0) (bitLength s), exec_finish_of_absorb hs,
      fun j => getElem_bufWith 0x80 s j.isLt, fun j => ?_, fun j => ?_, ?_, finished_fields s⟩
    · rw [getElem_withLengthField_of_lt _ _ j.isLt, Vector.getElem_replicate]
    · rw [getElem_withLengthField_add _ _ j.isLt, bitLength_eq]
    · simp [finalBlocks_of_gt hn, compressBlocks]

/-- Settles O32: the fields of STATUS, whose codes are those of R24 and R25. -/
theorem rdstatReturnsStatus : Obligations.RdstatReturnsStatus :=
  ⟨rfl, fun s => ⟨status s, rfl, rfl, status_fields s⟩⟩

/-- Settles O33: the cases of the index of RDW. -/
theorem rdwReturnsStateWord : Obligations.RdwReturnsStateWord :=
  fun _ _ => ⟨packFields_index 5, fun hs hi => exec_rdw_of_lt hs (Nat.lt_succ_of_le hi), exec_rdw_of_le,
    fun hs => exec_of_error hs nofun nofun nofun⟩

/-- Settles O34: the phase check of RDB, then the cases of its index. -/
theorem rdbReturnsDigestByte : Obligations.RdbReturnsDigestByte :=
  fun _ _ => ⟨packFields_index 6, fun hs hm => exec_rdb_of_lt hs (Nat.lt_succ_of_le hm), exec_rdb_of_absorb,
    exec_rdb_of_le, fun hs => exec_of_error hs nofun nofun nofun⟩

/-- Settles O35: as RDB, and every character is a `hexDigit`. -/
theorem rdhReturnsHexCharacter : Obligations.RdhReturnsHexCharacter := by
  refine fun c s => ⟨packFields_index 7, fun hs hc => ?_, exec_rdh_of_absorb, exec_rdh_of_le,
    fun hs => exec_of_error hs nofun nofun nofun⟩
  have hlt : c < 64 := Nat.lt_succ_of_le hc
  refine ⟨(hexDigest s.h)[c], rfl, exec_rdh_of_lt hs hlt, ?_⟩
  rw [getElem_hexDigest s.h hlt]
  exact hexDigit_range _

/-- Settles O36: the two halves of LENGTH, and 8·L < 2^64 because L has 61 bits. -/
theorem rdlReturnsLengthHalf : Obligations.RdlReturnsLengthHalf := by
  refine fun i s => ⟨packFields_index 8, fun hs => ⟨?_, ?_, ?_⟩, exec_rdl_of_le,
    fun hs => exec_of_error hs nofun nofun nofun⟩
  · rw [exec_rdl_of_lt hs (by decide), bitLengthHalf_zero, succeed_def]
  · rw [exec_rdl_of_lt hs (by decide), bitLengthHalf_one, succeed_def]
  · rw [← toNat_bitLength]
    exact (bitLength s).isLt

/-- Settles O39: an illegal word meets the same gate as a command. -/
theorem ignoredInError : Obligations.IgnoredInError := by
  intro w s hs hnop hinit hstat
  cases hd : decode w with
  | error e => rw [perform_of_error hd, execIllegal_of_error hs, ignored_def]
  | ok i =>
    rw [hd] at hnop hinit hstat
    rw [perform_of_ok hd, exec_of_error hs (mt (congrArg _) hnop) (mt (congrArg _) hinit) (mt (congrArg _) hstat),
      ignored_def]

/-- Settles O28: NOP only succeeds (R108). -/
theorem nopOnlyResponds : Obligations.NopOnlyResponds :=
  ⟨rfl, fun s => succeed_def 0 s⟩

/-- Settles O29: INIT writes every register from constants, so that a second INIT finds them written. -/
theorem initBeginsComputation : Obligations.InitBeginsComputation :=
  ⟨rfl, fun s => ⟨respond true 0 (beginComputation s), rfl, rfl, status_eq_zero rfl rfl rfl, ⟨rfl, rfl, rfl, rfl, rfl⟩, rfl⟩⟩

end Sys2Proof.Machine
end

section
/-! SUPPORT. What performing a word answers as to errors: outside ERROR it acts or enters ERROR with the first code of R122,
in ERROR it leaves the registers alone unless it is INIT (R105 to R107); and what an act of the host does to the registers
(R133, R138). -/

namespace Sys2Proof

/-- The only word of a command is its encoding. -/
theorem encode_of_decode_ok {w : CmdWord} {i : Instr} (hd : decode w = .ok i) : w = encode i := by
  obtain ⟨hr, ho, hopd, -⟩ := fields_of_decode_ok hd
  exact eq_packFields_iff.mpr ⟨ho, hr, hopd⟩

end Sys2Proof

namespace Sys2Proof.Machine

/-- The first error of R122 that applies, outside ERROR, to a word with its decoding (R118). -/
def firstError (s : State) (decoded : Except IllegalWord Instr) : ErrorCode :=
  match decoded with
  | .error _ => .illegalCmd
  | .ok .nop => .noError
  | .ok .init => .noError
  | .ok (.absorb _) =>
    if s.phase = .done then .sequence else if s.len.toNat = 2 ^ 61 - 1 then .lenOverflow else .noError
  | .ok .finish => if s.phase = .done then .sequence else .noError
  | .ok .rdstat => .noError
  | .ok (.rdw i) => if 7 < i then .badIndex else .noError
  | .ok (.rdb m) => if s.phase = .absorb then .sequence else if 31 < m then .badIndex else .noError
  | .ok (.rdh c) => if s.phase = .absorb then .sequence else if 63 < c then .badIndex else .noError
  | .ok (.rdl i) => if 1 < i then .badIndex else .noError

/-- The answers of a word outside ERROR, by the error it reports: it acts and leaves no error behind, or it makes error entry
from the state it found (R121). -/
inductive ErrorAnswer (s : State) : ErrorCode → Result → Prop where
  | acts {t : State} : t.phase ≠ .error → (s.err = .noError → t.err = .noError) → ErrorAnswer s .noError (.next t)
  | raises {code : ErrorCode} : code ≠ .noError → ErrorAnswer s code (raiseError code s)

section checks
variable {s : State} {code : ErrorCode}

/-- A read or NOP that passes its checks. -/
theorem errorAnswer_succeed (data : Word) (hs : s.phase ≠ .error) : ErrorAnswer s .noError (succeed data s) :=
  .acts hs id

theorem errorAnswer_unlessError {act : Result} (hs : s.phase ≠ .error) (hact : ErrorAnswer s code act) :
    ErrorAnswer s code (unlessError s act) := by
  rwa [unlessError_of_ne hs]

/-- The phase check, said of the phase `q` in which the command is not allowed (R106). -/
theorem errorAnswer_onlyInPhase {p q : Phase} {act : Result} (hpq : s.phase = q ↔ s.phase ≠ p)
    (hact : ErrorAnswer s code act) :
    ErrorAnswer s (if s.phase = q then .sequence else code) (onlyInPhase p s act) := by
  split
  · next hq =>
    rw [onlyInPhase_of_ne (hpq.mp hq)]
    exact .raises nofun
  · next hq =>
    rwa [onlyInPhase_of_eq (not_not.mp (mt hpq.mpr hq))]

/-- The index check, said of the largest index (R57). -/
theorem errorAnswer_withIndex {last i : Nat} {value : i < last + 1 → Word} (hs : s.phase ≠ .error) :
    ErrorAnswer s (if last < i then .badIndex else .noError)
      (withIndex (last + 1) i s fun hi => succeed (value hi) s) := by
  split
  · next hi =>
    rw [withIndex_of_le hi]
    exact .raises nofun
  · next hi =>
    rw [withIndex_of_lt (Nat.lt_succ_of_le (Nat.not_lt.mp hi))]
    exact errorAnswer_succeed _ hs

end checks

/-- The length check of ABSORB and its act (R110). -/
theorem errorAnswer_absorb (d : Byte) {s : State} (hs : s.phase ≠ .error) :
    ErrorAnswer s (if s.len.toNat = 2 ^ 61 - 1 then .lenOverflow else .noError)
      (if s.len = maxLen then raiseError .lenOverflow s else succeed 0 (padAbsorb d s)) := by
  by_cases hl : s.len = maxLen
  · rw [if_pos hl, if_pos ((len_eq_maxLen_iff s).mp hl)]
    exact .raises nofun
  · rw [if_neg hl, if_neg (mt (len_eq_maxLen_iff s).mpr hl)]
    exact .acts (by simpa using hs) (by simp)

theorem errorAnswer_finish (s : State) : ErrorAnswer s .noError (succeed 0 { padFinal s with phase := .done }) :=
  .acts nofun (by simp)

theorem phase_eq_done_iff {s : State} (hs : s.phase ≠ .error) : s.phase = .done ↔ s.phase ≠ .absorb := by
  obtain hp | hp | hp := phase_cases s
  · simp [hp]
  · simp [hp]
  · exact absurd hp hs

theorem phase_eq_absorb_iff {s : State} (hs : s.phase ≠ .error) : s.phase = .absorb ↔ s.phase ≠ .done := by
  rw [ne_eq, phase_eq_done_iff hs, not_not]

/-- The commands make their checks in the order of R122. -/
theorem errorAnswer_exec (i : Instr) {s : State} (hs : s.phase ≠ .error) :
    ErrorAnswer s (firstError s (.ok i)) (exec i s) := by
  cases i with
  | nop => exact errorAnswer_succeed 0 hs
  | init => exact .acts nofun fun _ => rfl
  | absorb d => exact errorAnswer_unlessError hs (errorAnswer_onlyInPhase (phase_eq_done_iff hs) (errorAnswer_absorb d hs))
  | finish => exact errorAnswer_unlessError hs (errorAnswer_onlyInPhase (phase_eq_done_iff hs) (errorAnswer_finish s))
  | rdstat => exact errorAnswer_succeed (status s) hs
  | rdw k => exact errorAnswer_unlessError hs (errorAnswer_withIndex hs)
  | rdb m => exact errorAnswer_unlessError hs (errorAnswer_onlyInPhase (phase_eq_absorb_iff hs) (errorAnswer_withIndex hs))
  | rdh c => exact errorAnswer_unlessError hs (errorAnswer_onlyInPhase (phase_eq_absorb_iff hs) (errorAnswer_withIndex hs))
  | rdl k => exact errorAnswer_unlessError hs (errorAnswer_withIndex hs)

theorem errorAnswer_perform (w : CmdWord) {s : State} (hs : s.phase ≠ .error) :
    ErrorAnswer s (firstError s (decode w)) (perform w s) := by
  cases hd : decode w with
  | ok i =>
    rw [perform_of_ok hd]
    exact errorAnswer_exec i hs
  | error e =>
    rw [perform_of_error hd]
    exact errorAnswer_unlessError hs (.raises nofun)

/-- If err is NONE before, the code is what err holds after, and the phase is ERROR exactly when it is a code. -/
theorem next_of_errorAnswer {s : State} {code : ErrorCode} {r : Result} (ha : ErrorAnswer s code r)
    (hs : s.err = .noError) : ∃ t, r = .next t ∧ (t.phase = .error ↔ t.err ≠ .noError) ∧ t.err = code := by
  cases ha with
  | acts hne herr => exact ⟨_, rfl, by simp [hne, herr hs], herr hs⟩
  | raises hcode => exact ⟨_, rfl, iff_of_true rfl hcode, rfl⟩

/-- In ERROR a word is INIT or answers and leaves the rest as it is (R107). -/
theorem perform_of_phase_error (w : CmdWord) {s : State} (hs : s.phase = .error) :
    (decode w = .ok .init ∧ perform w s = succeed 0 (beginComputation s)) ∨
      (decode w ≠ .ok .init ∧ ∃ ok data, perform w s = .next (respond ok data s)) := by
  by_cases hinit : decode w = .ok .init
  · exact .inl ⟨hinit, perform_of_ok hinit s⟩
  refine .inr ⟨hinit, ?_⟩
  by_cases hnop : decode w = .ok .nop
  · exact ⟨true, 0, perform_of_ok hnop s⟩
  by_cases hstat : decode w = .ok .rdstat
  · exact ⟨true, status s, perform_of_ok hstat s⟩
  exact ⟨false, 0, ignoredInError w s hs hnop hinit hstat⟩

theorem presentWord_phase (w : CmdWord) (s : State) : (presentWord w s).phase = s.phase := by
  unfold presentWord
  split
  · rfl
  · rfl

/-- The only act of the host that changes the phase is reset. -/
theorem hostMove_eq_reset_of_phase_ne {s : State} (hp : (hostMove s).phase ≠ s.phase) :
    hostMove s = resetBlock (dropAction s) ∧
      (s.host.script.head? = some .reset ∨ s.host.script.head? = some .resetDuring) := by
  cases hs : s.host.script with
  | nil => exact absurd (congrArg State.phase (hostMove_idle hs)) hp
  | cons act rest =>
    cases act with
    | present w =>
      rw [hostMove_present hs] at hp
      exact absurd (presentWord_phase w s) hp
    | take =>
      rw [hostMove_take hs] at hp
      exact absurd (takeResponse_phase s) hp
    | reset => exact ⟨hostMove_reset hs, .inl rfl⟩
    | resetDuring => exact ⟨hostMove_resetDuring hs, .inr rfl⟩

theorem sameRegisters_resetBlock (s : State) : SameRegisters (resetBlock s) State.reset :=
  ⟨rfl, rfl, rfl, rfl, rfl⟩

theorem sameRegisters_init (s : State) : SameRegisters (respond true 0 (beginComputation s)) State.reset :=
  ⟨rfl, rfl, rfl, rfl, rfl⟩

end Sys2Proof.Machine
end

section
/-! PROOF. The statements on errors (R121 to R123). -/

namespace Sys2Proof.Machine

/-- Settles O37: of the answers of `ErrorAnswer` only error entry ends in ERROR. -/
theorem errorEntryIsPrecise : Obligations.ErrorEntryIsPrecise := by
  intro w s t ht hs hte
  have ha := errorAnswer_perform w hs
  rw [ht] at ha
  generalize firstError s (decode w) = code at ha
  cases ha with
  | acts hne => exact absurd hte hne
  | raises hcode => exact ⟨hcode, rfl⟩

/-- Settles O38: in ERROR only INIT writes err; outside it the code is `firstError`. -/
theorem errorPriority : Obligations.ErrorPriority := by
  constructor
  · intro w s hs
    obtain ⟨hinit, hw⟩ | ⟨hinit, ok, data, hw⟩ := perform_of_phase_error w hs
    · exact ⟨_, hw, (if_pos hinit).symm⟩
    · exact ⟨_, hw, (if_neg hinit).symm⟩
  · intro w s hs herr
    exact next_of_errorAnswer (errorAnswer_perform w hs) herr

/-- Settles O40: a step that accepts a word is cut by reset or performs it, and one that accepts none is an act of the
host. -/
theorem onlyInitAndResetLeaveError : Obligations.OnlyInitAndResetLeaveError := by
  intro s t ht hs hte
  cases hw : acceptable s with
  | none =>
    rw [step_of_none hw] at ht
    cases ht
    obtain ⟨hmove, hscript⟩ := hostMove_eq_reset_of_phase_ne (hs ▸ hte)
    exact ⟨hmove ▸ sameRegisters_resetBlock _, .inr hscript⟩
  | some w =>
    by_cases hcut : s.host.script.head? = some .resetDuring
    · rw [step_of_cut hw hcut] at ht
      cases ht
      exact ⟨sameRegisters_resetBlock _, .inr (.inr hcut)⟩
    · rw [step_of_accept hw hcut] at ht
      obtain ⟨hinit, hperf⟩ | ⟨-, ok, data, hperf⟩ := perform_of_phase_error w (s := consumeWord s) hs
      · cases hperf.symm.trans ht
        exact ⟨sameRegisters_init _, .inl (congrArg some (encode_of_decode_ok hinit))⟩
      · cases hperf.symm.trans ht
        exact absurd hs hte

end Sys2Proof.Machine
end

section
/-! PROOF. The statement on the values after reset (R133). -/

namespace Sys2Proof.Machine

theorem bitLength_eq_zero {s : State} (hl : s.len = 0) : bitLength s = 0 := by
  rw [bitLength_eq, hl]
  rfl

/-- A step that accepts nothing while the host asserts reset puts the block in its reset state. -/
theorem step_of_reset {s : State} (hw : acceptable s = none) (hr : s.host.script.head? = some .reset) :
    step s = .next (resetBlock (dropAction s)) := by
  obtain ⟨rest, hs⟩ := List.head?_eq_some_iff.mp hr
  rw [step_of_none hw, hostMove_reset hs]

/-- Settles O47: each entry of the table is read off the reset state, and the step is `resetBlock`. -/
theorem resetValues : Obligations.ResetValues := by
  have hbuf (j : Fin 64) : State.reset.buf[j.val] = 0 := Vector.getElem_replicate j.isLt
  have hstep (s : State) (hw : acceptable s = none) (hr : s.host.script.head? = some .reset) :
      ∃ t, step s = .next t ∧ SameRegisters t State.reset ∧ t.engine.busy = false ∧ t.resp = none :=
    ⟨_, step_of_reset hw hr, sameRegisters_resetBlock _, rfl, rfl⟩
  exact ⟨rfl, rfl, hbuf, rfl, rfl, status_eq_zero rfl rfl rfl, bitLength_eq_zero rfl, rfl, rfl, hstep⟩

end Sys2Proof.Machine
end

section
/-! PROOF. The statements on the decoder and the encoder (R56 to R60). -/

namespace Sys2Proof

theorem decode_encode {i : Instr} (hi : i.WellFormed) : decode (encode i) = .ok i := by
  cases i with
  | nop | init | finish | rdstat => rfl
  | absorb d => simp [decode, encode, opcode, operandByte]
  | rdw n | rdb n | rdh n | rdl n => simpa [decode, encode, opcode, operandByte] using Nat.mod_eq_of_lt hi

theorem decode_ok_iff (w : CmdWord) : (∃ i, decode w = .ok i) ↔ ¬ IsIllegal w := by
  rw [← decode_error_iff]
  cases decode w with
  | ok i => simp
  | error e => simp

/-- The opcodes of the commands with an operand: ABSORB and the indexed reads (R57). -/
def operandOpcodes : List (BitVec 4) := [0x2, 0x5, 0x6, 0x7, 0x8]

/-- The opcode and operand fields of the legal words: a plain command has the operand 0x00 only, the others have any byte
(R59, R60). -/
def legalFields : Set (BitVec 4 × Byte) :=
  {op | op ∈ plainOpcodes} ×ˢ {0} ∪ {op | op ∈ operandOpcodes} ×ˢ Set.univ

theorem opcode_classes :
    ∀ op : BitVec 4, (¬ 9 ≤ op.toNat ↔ op ∈ plainOpcodes ∨ op ∈ operandOpcodes) ∧
      ¬ (op ∈ plainOpcodes ∧ op ∈ operandOpcodes) := by
  decide

theorem not_isIllegal_iff (w : CmdWord) :
    ¬ IsIllegal w ↔ rsvField w = 0 ∧ (opField w, opdField w) ∈ legalFields := by
  obtain ⟨hsmall, hdisj⟩ := opcode_classes (opField w)
  have hmem : (opField w, opdField w) ∈ legalFields ↔
      (opField w ∈ plainOpcodes ∧ opdField w = 0) ∨ opField w ∈ operandOpcodes := by
    simp [legalFields]
  rw [IsIllegal, hmem, not_or, not_or, hsmall]
  tauto

/-- The legal words, each made of the fields of `legalFields` in one way. -/
theorem setOf_decode_ok :
    {w : CmdWord | ∃ i, decode w = .ok i} = (fun f : BitVec 4 × Byte => packFields f.1 0 f.2) '' legalFields := by
  ext w
  rw [Set.mem_ofPred_eq, decode_ok_iff, not_isIllegal_iff]
  constructor
  · rintro ⟨hr, hf⟩
    exact ⟨_, hf, hr ▸ packFields_fields w⟩
  · rintro ⟨f, hf, rfl⟩
    simpa using hf

theorem packFields_injective : Function.Injective fun f : BitVec 4 × Byte => packFields f.1 0 f.2 := by
  intro f g hfg
  obtain ⟨hop, -, hopd⟩ := eq_packFields_iff.mp hfg
  rw [opField_packFields] at hop
  rw [opdField_packFields] at hopd
  exact Prod.ext hop hopd

theorem natCard_bitVec (n : Nat) : Nat.card (BitVec n) = 2 ^ n := by
  rw [Nat.card_congr BitVec.equivFin.toEquiv, Nat.card_fin]

/-- Four words of the plain commands, and 256 of each of the other five (R60). -/
theorem ncard_legalFields : legalFields.ncard = 1284 := by
  have hplain : {op | op ∈ plainOpcodes}.ncard = 4 := by
    rw [← List.coe_toFinset, Set.ncard_coe_finset]
    rfl
  have hoperand : {op | op ∈ operandOpcodes}.ncard = 5 := by
    rw [← List.coe_toFinset, Set.ncard_coe_finset]
    rfl
  have hdisj : Disjoint {op | op ∈ plainOpcodes} {op | op ∈ operandOpcodes} :=
    Set.disjoint_left.mpr fun op hp ho => (opcode_classes op).2 ⟨hp, ho⟩
  rw [legalFields, Set.ncard_union_eq (Set.disjoint_prod.mpr (.inl hdisj)), Set.ncard_prod, Set.ncard_prod, hplain, hoperand,
    Set.ncard_singleton, Set.ncard_univ, natCard_bitVec]
  norm_num

theorem ncard_decode_ok : {w : CmdWord | ∃ i, decode w = .ok i}.ncard = 1284 := by
  rw [setOf_decode_ok, Set.ncard_image_of_injective _ packFields_injective, ncard_legalFields]

theorem setOf_decode_error :
    {w : CmdWord | ∃ e, decode w = .error e} = {w : CmdWord | ∃ i, decode w = .ok i}ᶜ := by
  ext w
  rw [Set.mem_compl_iff, Set.mem_ofPred_eq, Set.mem_ofPred_eq, decode_error_iff, decode_ok_iff, not_not]

/-- Settles O1: `decode_encode`, where an index below 256 is not cut by its field. -/
theorem decodeEncodeRoundTrip : Obligations.DecodeEncodeRoundTrip :=
  fun _ => decode_encode

/-- Settles O2: `fields_of_decode_ok`, put together again by `encode_of_decode_ok`. -/
theorem encodeDecodeRoundTrip : Obligations.EncodeDecodeRoundTrip := by
  intro w i hd
  obtain ⟨-, -, -, hi⟩ := fields_of_decode_ok hd
  exact ⟨hi, (encode_of_decode_ok hd).symm⟩

/-- Settles O4: the legal words counted by their fields, and the illegal ones as the rest of the 2^16 words. -/
theorem legalWordCount : Obligations.LegalWordCount := by
  refine ⟨ncard_decode_ok, ?_⟩
  rw [setOf_decode_error, Set.ncard_compl, ncard_decode_ok, natCard_bitVec]
  norm_num

/-- Settles O59: a word has one opcode, and the opcode names the row. -/
theorem opcodeRowsAreDisjoint : Obligations.OpcodeRowsAreDisjoint := by
  intro w r r' hr hr' hm hm'
  obtain ⟨i, -, rfl⟩ := List.mem_map.mp hr
  obtain ⟨j, -, rfl⟩ := List.mem_map.mp hr'
  obtain ⟨hi, -, -⟩ := (opcodeRow_matches_iff i w).mp hm
  obtain ⟨hj, -, -⟩ := (opcodeRow_matches_iff j w).mp hm'
  exact opcodeRow_eq_of_opcode_eq (hi.symm.trans hj)

/-- Settles O6: each word is evaluated. -/
theorem sampleWordsDecode : Obligations.SampleWordsDecode := by
  unfold Obligations.SampleWordsDecode
  decide

end Sys2Proof
end

section
/-! SUPPORT. What performing a word can do, said once (R105 to R117): four ways to act or not to act; and that it depends on
the five registers only, and leaves the command port and the host alone. -/

namespace Sys2Proof.Machine

/-- The words that change H, L or buf: INIT, an ABSORB that takes its byte, and a FINISH in ABSORB (R109 to R111). -/
def Acts (w : CmdWord) (s : State) : Prop :=
  decode w = .ok .init ∨ (∃ d, decode w = .ok (.absorb d) ∧ s.phase = .absorb ∧ s.len ≠ maxLen) ∨
    (decode w = .ok .finish ∧ s.phase = .absorb)

/-- The answers of a word: INIT, ABSORB or FINISH acts, or the word only answers, or it makes error entry (R121). -/
inductive WordAnswer (w : CmdWord) (s : State) : Result → Prop where
  | begins : decode w = .ok .init → WordAnswer w s (succeed 0 (beginComputation s))
  | absorbs (d : Byte) : decode w = .ok (.absorb d) → s.phase = .absorb → s.len ≠ maxLen →
      WordAnswer w s (succeed 0 (padAbsorb d s))
  | finishes : decode w = .ok .finish → s.phase = .absorb → WordAnswer w s (succeed 0 { padFinal s with phase := .done })
  | answers (ok : Bool) (data : Word) : ¬ Acts w s → WordAnswer w s (.next (respond ok data s))
  | raises (code : ErrorCode) : ¬ Acts w s → s.phase ≠ .error → code ≠ .noError → WordAnswer w s (raiseError code s)

theorem not_acts_of_error {w : CmdWord} {e : IllegalWord} (hd : decode w = .error e) (s : State) : ¬ Acts w s := by
  simp [Acts, hd]

theorem not_acts_of_read {w : CmdWord} {i : Instr} (hd : decode w = .ok i) (hi : IsRead i) (s : State) : ¬ Acts w s := by
  cases i with
  | rdstat | rdw | rdb | rdh | rdl => simp [Acts, hd]
  | nop | init | absorb | finish => exact hi.elim

section answers
variable {w : CmdWord} {s : State}

theorem wordAnswer_illegal {e : IllegalWord} (hd : decode w = .error e) : WordAnswer w s (execIllegal s) := by
  by_cases hs : s.phase = .error
  · rw [execIllegal_of_error hs]
    exact .answers false 0 (not_acts_of_error hd s)
  · rw [execIllegal, unlessError_of_ne hs]
    exact .raises _ (not_acts_of_error hd s) hs nofun

theorem wordAnswer_absorb {d : Byte} (hd : decode w = .ok (.absorb d)) : WordAnswer w s (exec (.absorb d) s) := by
  obtain hs | hs | hs := phase_cases s
  · by_cases hl : s.len = maxLen
    · rw [exec_absorb_of_maxLen d hs hl]
      exact .raises _ (by simp [Acts, hd, hl]) (ne_error_of_absorb hs) nofun
    · rw [exec_absorb_of_ne_maxLen d hs hl]
      exact .absorbs d hd hs hl
  · rw [exec_absorb_of_done d hs]
    exact .raises _ (by simp [Acts, hd, hs]) (ne_error_of_done hs) nofun
  · have hx : exec (.absorb d) s = ignored s := exec_of_error hs nofun nofun nofun
    rw [hx]
    exact .answers false 0 (by simp [Acts, hd, hs])

theorem wordAnswer_finish (hd : decode w = .ok .finish) : WordAnswer w s (exec .finish s) := by
  obtain hs | hs | hs := phase_cases s
  · rw [exec_finish_of_absorb hs]
    exact .finishes hd hs
  · rw [exec_finish_of_done hs]
    exact .raises _ (by simp [Acts, hd, hs]) (ne_error_of_done hs) nofun
  · have hx : exec .finish s = ignored s := exec_of_error hs nofun nofun nofun
    rw [hx]
    exact .answers false 0 (by simp [Acts, hd, hs])

theorem wordAnswer_read {i : Instr} (hd : decode w = .ok i) (hi : IsRead i) : WordAnswer w s (exec i s) := by
  have hna := not_acts_of_read hd hi s
  have ha := exec_readAnswer hi s
  generalize exec i s = r at ha
  cases ha with
  | value data => exact .answers true data hna
  | sequence hs => exact .raises _ hna hs nofun
  | badIndex hs => exact .raises _ hna hs nofun
  | ignored => exact .answers false 0 hna

end answers

theorem wordAnswer_perform (w : CmdWord) (s : State) : WordAnswer w s (perform w s) := by
  cases hd : decode w with
  | error e =>
    rw [perform_of_error hd]
    exact wordAnswer_illegal hd
  | ok i =>
    rw [perform_of_ok hd]
    cases i with
    | nop => exact .answers true 0 (by simp [Acts, hd])
    | init => exact .begins hd
    | absorb d => exact wordAnswer_absorb hd
    | finish => exact wordAnswer_finish hd
    | rdstat | rdw | rdb | rdh | rdl => exact wordAnswer_read hd trivial

/-- Every word is performed to a next state (R105). -/
theorem perform_total (w : CmdWord) (s : State) : ∃ t, perform w s = .next t := by
  have ha := wordAnswer_perform w s
  generalize perform w s = r at ha ⊢
  cases ha with
  | begins | absorbs | finishes | answers | raises => exact ⟨_, rfl⟩

/-- Performing a word answers, and touches neither the command port nor the host (R54, R55). -/
theorem perform_frame {w : CmdWord} {s t : State} (ht : perform w s = .next t) :
    t.cmd = s.cmd ∧ t.host = s.host ∧ t.resp.isSome = true := by
  have ha := wordAnswer_perform w s
  rw [ht] at ha
  cases ha with
  | begins | answers | raises => exact ⟨rfl, rfl, rfl⟩
  | absorbs | finishes => simp

/-- The registers and BUSY agree: all that performing a word looks at (R33, R140). -/
structure Alike (s t : State) : Prop where
  registers : SameRegisters s t
  busy : s.engine.busy = t.engine.busy

/-- Two answers with the same response that leave states alike. -/
def SameAnswer (r r' : Result) : Prop :=
  ∃ t t', r = .next t ∧ r' = .next t' ∧ Alike t t' ∧ t.resp = t'.resp

section congruence
variable {s t : State}

theorem status_congr (hr : SameRegisters s t) : status s = status t := by
  simp only [status, bcnt, hr.len, hr.err, hr.phase]

theorem bitLength_congr (hr : SameRegisters s t) : bitLength s = bitLength t := by
  simp only [bitLength, hr.len]

theorem bitLengthHalf_congr (hr : SameRegisters s t) (i : Nat) : bitLengthHalf i s = bitLengthHalf i t := by
  simp only [bitLengthHalf, bitLength_congr hr]

theorem bcnt_congr (hr : SameRegisters s t) : bcnt s = bcnt t := by
  simp only [bcnt, hr.len]

theorem bufWith_congr (hr : SameRegisters s t) (d : Byte) : bufWith d s = bufWith d t := by
  simp only [bufWith, bcnt_congr hr, hr.buf]

theorem finalBlocks_congr (hr : SameRegisters s t) : finalBlocks s = finalBlocks t := by
  simp only [finalBlocks, bcnt_congr hr, bufWith_congr hr, bitLength_congr hr]

theorem padAbsorb_congr (ha : Alike s t) (d : Byte) : Alike (padAbsorb d s) (padAbsorb d t) := by
  obtain ⟨hr, hbusy⟩ := ha
  have hb := bcnt_congr hr
  have hbuf := bufWith_congr hr d
  by_cases hn : bcnt s = 63
  · rw [padAbsorb_of_eq d hn, padAbsorb_of_eq d (hb ▸ hn)]
    exact ⟨⟨by simp [hr.h, hbuf], by simp [hr.len], by simp, hr.phase, hr.err⟩, by simp⟩
  · rw [padAbsorb_of_ne d hn, padAbsorb_of_ne d (hb ▸ hn)]
    exact ⟨⟨hr.h, congrArg (· + 1) hr.len, hbuf, hr.phase, hr.err⟩, hbusy⟩

theorem padFinal_congr (ha : Alike s t) : Alike { padFinal s with phase := .done } { padFinal t with phase := .done } := by
  obtain ⟨hr, -⟩ := ha
  refine ⟨⟨?_, ?_, rfl, rfl, ?_⟩, ?_⟩
  · simp [hr.h, finalBlocks_congr hr]
  · simp [hr.len]
  · simp [hr.err]
  · simp [(padFinal_engine s).1, (padFinal_engine t).1]

theorem sameAnswer_succeed {data data' : Word} (ha : Alike s t) (hd : data = data') :
    SameAnswer (succeed data s) (succeed data' t) :=
  ⟨_, _, rfl, rfl, ⟨⟨ha.registers.h, ha.registers.len, ha.registers.buf, ha.registers.phase, ha.registers.err⟩, ha.busy⟩,
    by rw [respond_resp, respond_resp, hd]⟩

theorem sameAnswer_raiseError (ha : Alike s t) (code : ErrorCode) : SameAnswer (raiseError code s) (raiseError code t) :=
  ⟨_, _, rfl, rfl, ⟨⟨ha.registers.h, ha.registers.len, ha.registers.buf, rfl, rfl⟩, ha.busy⟩, rfl⟩

theorem sameAnswer_ignored (ha : Alike s t) : SameAnswer (ignored s) (ignored t) :=
  ⟨_, _, rfl, rfl, ⟨⟨ha.registers.h, ha.registers.len, ha.registers.buf, ha.registers.phase, ha.registers.err⟩, ha.busy⟩,
    rfl⟩

theorem sameAnswer_unlessError {act act' : Result} (ha : Alike s t) (hact : SameAnswer act act') :
    SameAnswer (unlessError s act) (unlessError t act') := by
  by_cases hs : s.phase = .error
  · rw [unlessError_of_error hs, unlessError_of_error (ha.registers.phase ▸ hs)]
    exact sameAnswer_ignored ha
  · rwa [unlessError_of_ne hs, unlessError_of_ne (ha.registers.phase ▸ hs)]

theorem sameAnswer_onlyInPhase {p : Phase} {act act' : Result} (ha : Alike s t) (hact : SameAnswer act act') :
    SameAnswer (onlyInPhase p s act) (onlyInPhase p t act') := by
  by_cases hs : s.phase = p
  · rwa [onlyInPhase_of_eq hs, onlyInPhase_of_eq (ha.registers.phase ▸ hs)]
  · rw [onlyInPhase_of_ne hs, onlyInPhase_of_ne (ha.registers.phase ▸ hs)]
    exact sameAnswer_raiseError ha _

theorem sameAnswer_withIndex {count i : Nat} {value value' : i < count → Word} (ha : Alike s t)
    (hv : ∀ hi, value hi = value' hi) :
    SameAnswer (withIndex count i s fun hi => succeed (value hi) s)
      (withIndex count i t fun hi => succeed (value' hi) t) := by
  by_cases hi : i < count
  · rw [withIndex_of_lt hi, withIndex_of_lt hi]
    exact sameAnswer_succeed ha (hv hi)
  · rw [withIndex_of_le (Nat.not_lt.mp hi), withIndex_of_le (Nat.not_lt.mp hi)]
    exact sameAnswer_raiseError ha _

theorem sameAnswer_absorb (ha : Alike s t) (d : Byte) :
    SameAnswer (if s.len = maxLen then raiseError .lenOverflow s else succeed 0 (padAbsorb d s))
      (if t.len = maxLen then raiseError .lenOverflow t else succeed 0 (padAbsorb d t)) := by
  rw [ha.registers.len]
  split
  · exact sameAnswer_raiseError ha _
  · exact sameAnswer_succeed (padAbsorb_congr ha d) rfl

theorem sameAnswer_exec (ha : Alike s t) (i : Instr) : SameAnswer (exec i s) (exec i t) := by
  have hh := ha.registers.h
  cases i with
  | nop => exact sameAnswer_succeed ha rfl
  | init => exact sameAnswer_succeed ⟨⟨rfl, rfl, rfl, rfl, rfl⟩, ha.busy⟩ rfl
  | absorb d => exact sameAnswer_unlessError ha (sameAnswer_onlyInPhase ha (sameAnswer_absorb ha d))
  | finish =>
    exact sameAnswer_unlessError ha (sameAnswer_onlyInPhase ha (sameAnswer_succeed (padFinal_congr ha) rfl))
  | rdstat => exact sameAnswer_succeed ha (status_congr ha.registers)
  | rdw k => exact sameAnswer_unlessError ha (sameAnswer_withIndex ha fun _ => by rw [hh])
  | rdb m =>
    exact sameAnswer_unlessError ha (sameAnswer_onlyInPhase ha (sameAnswer_withIndex ha fun _ => by rw [hh]))
  | rdh c =>
    exact sameAnswer_unlessError ha (sameAnswer_onlyInPhase ha (sameAnswer_withIndex ha fun _ => by rw [hh]))
  | rdl k =>
    exact sameAnswer_unlessError ha (sameAnswer_withIndex ha fun _ => bitLengthHalf_congr ha.registers k)

/-- What performing a word answers depends on the registers and BUSY only (R33). -/
theorem sameAnswer_perform (ha : Alike s t) (w : CmdWord) : SameAnswer (perform w s) (perform w t) := by
  cases hd : decode w with
  | ok i =>
    rw [perform_of_ok hd, perform_of_ok hd]
    exact sameAnswer_exec ha i
  | error e =>
    rw [perform_of_error hd, perform_of_error hd]
    exact sameAnswer_unlessError ha (sameAnswer_raiseError ha _)

end congruence

end Sys2Proof.Machine
end

section
/-! SUPPORT. What an act of the host can do (R132, R133, R138), and the invariant of the block under every step (R21, R25,
R29). -/

namespace Sys2Proof.Machine

/-- The host asserts reset next (R133, R134). -/
def HostResets (s : State) : Prop :=
  s.host.script.head? = some .reset ∨ s.host.script.head? = some .resetDuring

/-- Two states with the same registers and the same engine. -/
structure SameBlock (s t : State) : Prop where
  registers : SameRegisters s t
  engine : s.engine = t.engine

theorem sameBlock_refl (s : State) : SameBlock s s := ⟨⟨rfl, rfl, rfl, rfl, rfl⟩, rfl⟩

theorem presentWord_of_some {s : State} {v : CmdWord} (hc : s.cmd = some v) (w : CmdWord) : presentWord w s = s := by
  simp only [presentWord, hc]

theorem presentWord_of_none {s : State} (hc : s.cmd = none) (w : CmdWord) :
    presentWord w s = { dropAction s with cmd := some w } := by
  simp only [presentWord, hc]

/-- An act of the host: either it is reset, or registers and engine stay and a presented word stays presented. -/
theorem hostMove_cases (s : State) :
    (HostResets s ∧ hostMove s = resetBlock (dropAction s)) ∨
      (¬ HostResets s ∧ SameBlock (hostMove s) s ∧ ∀ w, s.cmd = some w → (hostMove s).cmd = some w) := by
  cases hs : s.host.script with
  | nil =>
    rw [hostMove_idle hs]
    exact .inr ⟨by simp [HostResets, hs], sameBlock_refl s, fun _ => id⟩
  | cons act rest =>
    cases act with
    | present v =>
      rw [hostMove_present hs]
      refine .inr ⟨by simp [HostResets, hs], ?_⟩
      cases hc : s.cmd with
      | none =>
        rw [presentWord_of_none hc]
        exact ⟨⟨⟨rfl, rfl, rfl, rfl, rfl⟩, rfl⟩, nofun⟩
      | some u =>
        rw [presentWord_of_some hc]
        exact ⟨sameBlock_refl s, fun w hw => hc.trans hw⟩
    | take =>
      rw [hostMove_take hs]
      exact .inr ⟨by simp [HostResets, hs], ⟨⟨rfl, rfl, rfl, rfl, rfl⟩, rfl⟩, fun _ => id⟩
    | reset => exact .inl ⟨.inl (by rw [hs]; rfl), hostMove_reset hs⟩
    | resetDuring => exact .inl ⟨.inr (by rw [hs]; rfl), hostMove_resetDuring hs⟩

/-- Below the limit L counts without wrapping (R22, R110). -/
theorem toNat_len_add_one {s : State} (hl : s.len ≠ maxLen) : (s.len + 1).toNat = s.len.toNat + 1 := by
  have hne : s.len.toNat ≠ 2 ^ 61 - 1 := mt (len_eq_maxLen_iff s).mpr hl
  have hlt := s.len.isLt
  have hone : (1 : BitVec 61).toNat = 1 := rfl
  rw [BitVec.toNat_add, hone]
  omega

theorem machineInv_of_sameBlock {s t : State} (hb : SameBlock t s) (hi : MachineInv s) : MachineInv t := by
  obtain ⟨hr, heng⟩ := hb
  obtain ⟨herr, hbuf, hdone, hrc, hbusy⟩ := hi
  constructor
  · rwa [hr.phase, hr.err]
  · rwa [bcnt_congr hr, hr.buf]
  · rwa [hr.phase, hr.buf]
  · rwa [heng]
  · rwa [heng]

theorem machineInv_respond {s : State} (ok : Bool) (data : Word) (hi : MachineInv s) : MachineInv (respond ok data s) :=
  machineInv_of_sameBlock (s := s) (t := respond ok data s) ⟨⟨rfl, rfl, rfl, rfl, rfl⟩, rfl⟩ hi

theorem machineInv_consumeWord {s : State} (hi : MachineInv s) : MachineInv (consumeWord s) :=
  machineInv_of_sameBlock (s := s) (t := consumeWord s) ⟨⟨rfl, rfl, rfl, rfl, rfl⟩, rfl⟩ hi

/-- A new computation with an idle engine satisfies the invariant. -/
theorem machineInv_of_fresh {s : State} (hr : SameRegisters s State.reset) (hrc : s.engine.rc.toNat ≤ 64)
    (hbusy : s.engine.busy = false) : MachineInv s := by
  constructor
  · rw [hr.phase, hr.err]
    exact iff_of_false nofun (not_not.mpr rfl)
  · intro j _
    rw [hr.buf]
    exact Vector.getElem_replicate j.isLt
  · exact fun _ => hr.buf
  · exact hrc
  · exact hbusy

theorem machineInv_padAbsorb {s : State} (d : Byte) (hs : s.phase = .absorb) (hl : s.len ≠ maxLen) (hi : MachineInv s) :
    MachineInv (padAbsorb d s) := by
  obtain ⟨herr, hbuf, -, hrc, hbusy⟩ := hi
  have hnd : (padAbsorb d s).phase ≠ .done := by simp [hs]
  have herr' : (padAbsorb d s).phase = .error ↔ (padAbsorb d s).err ≠ .noError := by
    rwa [padAbsorb_phase, padAbsorb_err]
  by_cases hn : bcnt s = 63
  · rw [padAbsorb_of_eq d hn] at herr' hnd ⊢
    exact ⟨herr', fun j _ => Vector.getElem_replicate j.isLt, fun hd => absurd hd hnd, by simp [run_eq], by simp⟩
  · rw [padAbsorb_of_ne d hn] at herr' hnd ⊢
    refine ⟨herr', fun j hj => ?_, fun hd => absurd hd hnd, hrc, hbusy⟩
    have hn : s.len.toNat % 64 ≠ 63 := mt (bcnt_eq_63_iff s).mpr hn
    have hj : s.len.toNat % 64 < j.val := by
      rw [bcnt_toNat, toNat_len_add_one hl] at hj
      omega
    have hzero := hbuf j (by rw [bcnt_toNat]; exact hj.le)
    rw [Fin.getElem_fin] at hzero ⊢
    rw [getElem_bufWith d s j.isLt, if_neg hj.ne', hzero]

theorem machineInv_padFinal {s : State} (hs : s.phase = .absorb) (hi : MachineInv s) :
    MachineInv { padFinal s with phase := .done } := by
  obtain ⟨hbusy, hrc⟩ := padFinal_engine s
  have herr : s.err = .noError := by
    by_contra hne
    exact ne_error_of_absorb hs (hi.err_iff.mpr hne)
  exact ⟨by simp [herr], fun j _ => Vector.getElem_replicate j.isLt, fun _ => rfl, by simp [hrc], hbusy⟩

theorem machineInv_perform {w : CmdWord} {s t : State} (ht : perform w s = .next t) (hi : MachineInv s) : MachineInv t := by
  have ha := wordAnswer_perform w s
  rw [ht] at ha
  cases ha with
  | begins => exact machineInv_of_fresh (sameRegisters_init s) hi.rc_le hi.not_busy
  | absorbs d _ hs hl => exact machineInv_respond _ _ (machineInv_padAbsorb d hs hl hi)
  | finishes _ hs => exact machineInv_respond _ _ (machineInv_padFinal hs hi)
  | answers ok data => exact machineInv_respond ok data hi
  | raises code _ _ hc =>
    exact ⟨iff_of_true rfl hc, hi.buf_zero, nofun, hi.rc_le, hi.not_busy⟩

theorem machineInv_resetBlock (s : State) : MachineInv (resetBlock s) :=
  machineInv_of_fresh (sameRegisters_resetBlock s) (Nat.zero_le 64) rfl

theorem machineInv_hostMove {s : State} (hi : MachineInv s) : MachineInv (hostMove s) := by
  obtain ⟨-, hm⟩ | ⟨-, hb, -⟩ := hostMove_cases s
  · rw [hm]
    exact machineInv_resetBlock _
  · exact machineInv_of_sameBlock hb hi

/-- The three kinds of step: the host acts, a command is cut by reset, or a word is performed whole (R105, R134, R138). -/
theorem step_cases (s : State) :
    (acceptable s = none ∧ step s = .next (hostMove s)) ∨
      ∃ w, acceptable s = some w ∧
        ((s.host.script.head? = some .resetDuring ∧ step s = .next (cutCommand s)) ∨
          (s.host.script.head? ≠ some .resetDuring ∧ step s = perform w (consumeWord s))) := by
  cases hw : acceptable s with
  | none => exact .inl ⟨rfl, step_of_none hw⟩
  | some w =>
    by_cases hc : s.host.script.head? = some .resetDuring
    · exact .inr ⟨w, rfl, .inl ⟨hc, step_of_cut hw hc⟩⟩
    · exact .inr ⟨w, rfl, .inr ⟨hc, step_of_accept hw hc⟩⟩

theorem step_total (s : State) : ∃ t, step s = .next t := by
  obtain ⟨-, hst⟩ | ⟨w, -, ⟨-, hst⟩ | ⟨-, hst⟩⟩ := step_cases s
  · exact ⟨_, hst⟩
  · exact ⟨_, hst⟩
  · rw [hst]
    exact perform_total w _

end Sys2Proof.Machine
end

section
/-! PROOF. The statements on the step, the invariant, reset and waiting words (R21, R25, R29, R33, R132 to R134, R138 to
R140). -/

namespace Sys2Proof.Machine

/-- Settles O51: the kinds of step of `step_cases`, each of which keeps the invariant. -/
theorem stepKeepsInv : Obligations.StepKeepsInv := by
  intro s t hi ht
  obtain ⟨-, hst⟩ | ⟨w, -, ⟨-, hst⟩ | ⟨-, hst⟩⟩ := step_cases s
  · cases hst.symm.trans ht
    exact machineInv_hostMove hi
  · cases hst.symm.trans ht
    exact machineInv_resetBlock _
  · exact machineInv_perform (hst.symm.trans ht) (machineInv_consumeWord hi)

/-- Settles O50: the reset state is fresh and its engine idle. -/
theorem resetSatisfiesInv : Obligations.ResetSatisfiesInv :=
  machineInv_of_fresh ⟨rfl, rfl, rfl, rfl, rfl⟩ (Nat.zero_le 64) rfl

/-- Settles O48: the step is `cutCommand`, which resets the block without the word. -/
theorem resetCutsTheCommandShort : Obligations.ResetCutsTheCommandShort :=
  fun _ _ hw hc => ⟨_, step_of_cut hw hc, sameRegisters_resetBlock _, rfl, rfl, rfl, rfl, rfl⟩

/-- Settles O49: the presented word is accepted, and performing it is the command it decodes to or an illegal command. -/
theorem stepRunsTheDecodedCommand : Obligations.StepRunsTheDecodedCommand := by
  intro s w hcmd hresp hbusy hcut
  have hst : step s = perform w (consumeWord s) :=
    step_of_accept ((acceptable_eq_some_iff s w).mpr ⟨hcmd, hresp, hbusy⟩) hcut
  exact ⟨fun i hd => hst.trans (perform_of_ok hd _), fun e hd => hst.trans (perform_of_error hd _)⟩

/-- Settles O52: `step_total`, and what performing a word leaves (`perform_frame`). -/
theorem everyCommandCompletes : Obligations.EveryCommandCompletes := by
  intro s
  obtain ⟨t, ht⟩ := step_total s
  refine ⟨t, ht, fun w hw hc => ?_⟩
  have hst := step_of_accept hw hc
  obtain ⟨hcmd, hhost, hresp⟩ := perform_frame (hst.symm.trans ht)
  exact ⟨hst, hcmd, hresp, hhost⟩

theorem acceptable_eq_none_of_waiting {s : State} (hwait : s.resp.isSome = true ∨ s.engine.busy = true) :
    acceptable s = none := by
  cases hw : acceptable s with
  | none => rfl
  | some v =>
    obtain ⟨-, hresp, hbusy⟩ := (acceptable_eq_some_iff s v).mp hw
    simp [hresp, hbusy] at hwait

/-- Settles O53: without an accepted word the step is an act of the host, in the two cases of `hostMove_cases`. -/
theorem presentedWordWaits : Obligations.PresentedWordWaits := by
  refine ⟨fun s hw hr hd => ?_, fun s w hcmd hwait hr hd => ?_, fun s w hcmd hwait hreset => ?_⟩
  · obtain ⟨hx, -⟩ | ⟨-, hb, -⟩ := hostMove_cases s
    · exact absurd hx (not_or.mpr ⟨hr, hd⟩)
    · exact ⟨_, step_of_none hw, hb.registers, hb.engine⟩
  · have hw := acceptable_eq_none_of_waiting hwait
    obtain ⟨hx, -⟩ | ⟨-, -, hkeep⟩ := hostMove_cases s
    · exact absurd hx (not_or.mpr ⟨hr, hd⟩)
    · exact ⟨hw, _, step_of_none hw, hkeep w hcmd⟩
  · have hw := acceptable_eq_none_of_waiting hwait
    obtain ⟨-, hm⟩ | ⟨hx, -⟩ := hostMove_cases s
    · refine ⟨_, step_of_none hw, ?_⟩
      rw [hm]
      exact ⟨hcmd, sameRegisters_resetBlock _⟩
    · exact absurd hreset hx

/-- What two states share that differ in a..h, W and rc only. -/
theorem eraseTransient_eq_iff (s t : State) :
    eraseTransient s = eraseTransient t ↔ Alike s t ∧ s.cmd = t.cmd ∧ s.resp = t.resp ∧ s.host = t.host := by
  constructor
  · intro he
    obtain ⟨hh, hlen, hbuf, hphase, herr, heng, hcmd, hresp, hhost⟩ := State.mk.inj he
    exact ⟨⟨⟨hh, hlen, hbuf, hphase, herr⟩, (Engine.mk.inj heng).2.2.2⟩, hcmd, hresp, hhost⟩
  · rintro ⟨⟨⟨hh, hlen, hbuf, hphase, herr⟩, hbusy⟩, hcmd, hresp, hhost⟩
    simp only [eraseTransient, hh, hlen, hbuf, hphase, herr, hbusy, hcmd, hresp, hhost]

theorem acceptable_eraseTransient (s : State) : acceptable (eraseTransient s) = acceptable s := rfl

theorem eraseTransient_presentWord (w : CmdWord) (s : State) :
    eraseTransient (presentWord w (eraseTransient s)) = eraseTransient (presentWord w s) := by
  cases hc : s.cmd with
  | none =>
    rw [presentWord_of_none hc, presentWord_of_none (s := eraseTransient s) hc]
    rfl
  | some v =>
    rw [presentWord_of_some hc, presentWord_of_some (s := eraseTransient s) hc]
    rfl

/-- The host does not look at the transient state. -/
theorem eraseTransient_hostMove (s : State) :
    eraseTransient (hostMove (eraseTransient s)) = eraseTransient (hostMove s) := by
  have hs : (eraseTransient s).host.script = s.host.script := rfl
  cases hscript : s.host.script with
  | nil =>
    rw [hostMove_idle hscript, hostMove_idle (hs.trans hscript)]
    rfl
  | cons act rest =>
    have hs := hs.trans hscript
    cases act with
    | present w =>
      rw [hostMove_present hscript, hostMove_present hs]
      exact eraseTransient_presentWord w s
    | take =>
      rw [hostMove_take hscript, hostMove_take hs]
      rfl
    | reset =>
      rw [hostMove_reset hscript, hostMove_reset hs]
      rfl
    | resetDuring =>
      rw [hostMove_resetDuring hscript, hostMove_resetDuring hs]
      rfl

theorem cutCommand_eraseTransient (s : State) : cutCommand (eraseTransient s) = cutCommand s := rfl

theorem eraseTransient_consumeWord {s t : State} (he : eraseTransient s = eraseTransient t) :
    eraseTransient (consumeWord s) = eraseTransient (consumeWord t) := by
  obtain ⟨⟨⟨hh, hlen, hbuf, hphase, herr⟩, hbusy⟩, -, hresp, hhost⟩ := (eraseTransient_eq_iff s t).mp he
  exact (eraseTransient_eq_iff _ _).mpr ⟨⟨⟨hh, hlen, hbuf, hphase, herr⟩, hbusy⟩, rfl, hresp, hhost⟩

/-- Words performed on states that differ in the transient state only leave such states. -/
theorem perform_eraseTransient {s t : State} (he : eraseTransient s = eraseTransient t) (w : CmdWord) :
    ∃ s' t', perform w s = .next s' ∧ perform w t = .next t' ∧ eraseTransient s' = eraseTransient t' := by
  obtain ⟨ha, hcmd, -, hhost⟩ := (eraseTransient_eq_iff s t).mp he
  obtain ⟨s', t', hs, ht, ha', hresp'⟩ := sameAnswer_perform ha w
  obtain ⟨hscmd, hshost, -⟩ := perform_frame hs
  obtain ⟨htcmd, hthost, -⟩ := perform_frame ht
  refine ⟨s', t', hs, ht, (eraseTransient_eq_iff s' t').mpr ⟨ha', ?_, hresp', ?_⟩⟩
  · rw [hscmd, htcmd, hcmd]
  · rw [hshost, hthost, hhost]

/-- Settles O54: both steps are of the same kind, and none of the three kinds looks at the transient state. -/
theorem transientStateUnobservable : Obligations.TransientStateUnobservable := by
  intro s t he
  have hhost : s.host = t.host := ((eraseTransient_eq_iff s t).mp he).2.2.2
  have hacc : acceptable s = acceptable t := by
    rw [← acceptable_eraseTransient s, he, acceptable_eraseTransient]
  obtain ⟨hw, hst⟩ | ⟨w, hw, ⟨hc, hst⟩ | ⟨hc, hst⟩⟩ := step_cases s
  · refine ⟨_, _, hst, step_of_none (hacc ▸ hw), ?_⟩
    rw [← eraseTransient_hostMove s, he, eraseTransient_hostMove]
  · refine ⟨_, _, hst, step_of_cut (hacc ▸ hw) (hhost ▸ hc), ?_⟩
    rw [← cutCommand_eraseTransient s, he, cutCommand_eraseTransient]
  · rw [hst, step_of_accept (hacc ▸ hw) (hhost ▸ hc)]
    exact perform_eraseTransient (eraseTransient_consumeWord he) w

end Sys2Proof.Machine
end

section
/-! SUPPORT. The blocks of a message that grows byte by byte and of its padding (R71, R74), and that the buffer and the blocks
passed to Compress are theirs (R75, R76). -/

namespace Sys2Proof.Machine

theorem getElem_blockAt {j : Nat} (p : List Byte) (k : Nat) (hj : j < 64) :
    (blockAt p k)[j] = p.getD (64 * k + j) 0 := by
  simp only [blockAt, Vector.getElem_ofFn]

theorem blockAt_congr {p q : List Byte} {k : Nat} (hpq : ∀ j < 64, p.getD (64 * k + j) 0 = q.getD (64 * k + j) 0) :
    blockAt p k = blockAt q k := by
  ext1 j hj
  rw [getElem_blockAt p k hj, getElem_blockAt q k hj, hpq j hj]

/-- A block wholly inside a sequence does not see what is appended. -/
theorem blockAt_append {p : List Byte} {k : Nat} (q : List Byte) (hk : 64 * (k + 1) ≤ p.length) :
    blockAt (p ++ q) k = blockAt p k :=
  blockAt_congr fun _ _ => List.getD_append _ _ _ _ (by omega)

/-- Past the end of the sequence there are only the zeros of `blockAt`. -/
theorem blockAt_of_length_le {p : List Byte} {k : Nat} (hk : p.length ≤ 64 * k) : blockAt p k = Vector.replicate 64 0 := by
  ext1 j hj
  rw [getElem_blockAt p k hj, List.getD_eq_default _ _ (by omega), Vector.getElem_replicate]

/-- The blocks of a longer sequence: those of the shorter one and the n new ones. -/
theorem blocks_append {p q : List Byte} {n : Nat} (hn : (p ++ q).length / 64 = p.length / 64 + n) :
    blocks (p ++ q) = blocks p ++ (List.range n).map fun i => blockAt (p ++ q) (p.length / 64 + i) := by
  have hold : (List.range (p.length / 64)).map (blockAt (p ++ q)) = blocks p := by
    refine List.map_congr_left fun k hk => blockAt_append q ?_
    have hk := List.mem_range.mp hk
    omega
  rw [blocks, hn, List.range_add, List.map_append, hold, List.map_map]
  rfl

theorem getD_concat (p : List Byte) (d : Byte) (i : Nat) :
    (p ++ [d]).getD i 0 = if i = p.length then d else p.getD i 0 := by
  obtain hi | rfl | hi := lt_trichotomy i p.length
  · rw [List.getD_append _ _ _ _ hi, if_neg hi.ne]
  · rw [List.getD_append_right _ _ _ _ le_rfl, if_pos rfl, Nat.sub_self, List.getD_cons_zero]
  · have hlen : (p ++ [d]).length ≤ i := by simpa using hi
    rw [List.getD_eq_default _ _ hlen, if_neg hi.ne', List.getD_eq_default _ _ hi.le]

/-- L and buf are those of a stream of the bytes `p`: buf holds what the whole blocks of `p` leave over (R32). -/
def Buffered (p : List Byte) (s : State) : Prop :=
  s.len.toNat = p.length ∧ s.buf = blockAt p (p.length / 64)

section stream
variable {p : List Byte} {s : State}

theorem bufWith_of_buffered (hb : Buffered p s) (d : Byte) : bufWith d s = blockAt (p ++ [d]) (p.length / 64) := by
  obtain ⟨hlen, hbuf⟩ := hb
  ext1 j hj
  have hplace : j = p.length % 64 ↔ 64 * (p.length / 64) + j = p.length := by omega
  rw [getElem_bufWith d s hj, hlen, hbuf, getElem_blockAt _ _ hj, getElem_blockAt _ _ hj, getD_concat]
  exact if_congr hplace rfl rfl

/-- The whole blocks after one more byte: the byte completes a block exactly when BCNT is 63 (R75). -/
theorem blocks_concat (hb : Buffered p s) (d : Byte) : blocks (p ++ [d]) = blocks p ++ completedBlocks d s := by
  have hlen : (p ++ [d]).length = p.length + 1 := List.length_append
  by_cases hn : bcnt s = 63
  · have hmod := (bcnt_eq_63_iff s).mp hn
    rw [hb.1] at hmod
    have hnew : (p ++ [d]).length / 64 = p.length / 64 + 1 := by omega
    rw [blocks_append hnew, completedBlocks, if_pos hn, bufWith_of_buffered hb]
    rfl
  · have hmod := mt (bcnt_eq_63_iff s).mpr hn
    rw [hb.1] at hmod
    have hnew : (p ++ [d]).length / 64 = p.length / 64 + 0 := by omega
    rw [blocks_append hnew, completedBlocks, if_neg hn]
    rfl

theorem buffered_padAbsorb (hb : Buffered p s) (hl : s.len ≠ maxLen) (d : Byte) : Buffered (p ++ [d]) (padAbsorb d s) := by
  have hlen : (p ++ [d]).length = p.length + 1 := List.length_append
  constructor
  · rw [padAbsorb_len, toNat_len_add_one hl, hb.1, hlen]
  · by_cases hn : bcnt s = 63
    · have hmod := (bcnt_eq_63_iff s).mp hn
      rw [hb.1] at hmod
      rw [padAbsorb_of_eq d hn, clearBuf_buf, blockAt_of_length_le (by omega)]
    · have hmod := mt (bcnt_eq_63_iff s).mpr hn
      rw [hb.1] at hmod
      have hsame : (p ++ [d]).length / 64 = p.length / 64 := by omega
      rw [padAbsorb_of_ne d hn, hsame]
      exact bufWith_of_buffered hb d

end stream

/-- A fresh state is that of a stream of no bytes. -/
theorem buffered_nil {s : State} (hl : s.len = 0) (hb : s.buf = Vector.replicate 64 0) : Buffered [] s := by
  refine ⟨by rw [hl]; rfl, ?_⟩
  rw [hb, blockAt_of_length_le (Nat.zero_le _)]

theorem length_pad (m : List Byte) : (pad m).length = m.length + (1 + padZeros m.length + 8) := by
  simp only [pad, List.length_append, List.length_replicate, List.length_singleton, Vector.length_toList]
  omega

theorem padZeros_of_le {n : Nat} (hn : n % 64 ≤ 55) : padZeros n = 55 - n % 64 := by
  unfold padZeros
  omega

theorem padZeros_of_gt {n : Nat} (hn : 56 ≤ n % 64) : padZeros n = 119 - n % 64 := by
  unfold padZeros
  omega

/-- The message with 0x80 and the zeros, all of the padding but the length field. -/
theorem pad_eq_append (m : List Byte) :
    pad m = (m ++ [0x80] ++ List.replicate (padZeros m.length) 0) ++ (be64Bytes (BitVec.ofNat 64 (8 * m.length))).toList :=
  rfl

theorem length_pad_head (m : List Byte) :
    (m ++ [(0x80 : Byte)] ++ List.replicate (padZeros m.length) 0).length = m.length + 1 + padZeros m.length := by
  simp only [List.length_append, List.length_replicate, List.length_singleton]

/-- Before the length field the zeros of the padding read as the zeros past the end. -/
theorem getD_pad_of_lt {m : List Byte} {i : Nat} (hi : i < m.length + 1 + padZeros m.length) :
    (pad m).getD i 0 = (m ++ [0x80]).getD i 0 := by
  rw [pad_eq_append, List.getD_append _ _ _ _ (by rwa [length_pad_head])]
  by_cases hin : i < (m ++ [(0x80 : Byte)]).length
  · exact List.getD_append _ _ _ _ hin
  · have hin := Nat.not_lt.mp hin
    rw [List.getD_append_right _ _ _ _ hin, List.getD_eq_default (m ++ _) _ hin, List.getD_eq_getElem?_getD,
      List.getElem?_getD_replicate_default_eq]

theorem getD_pad_lengthField {m : List Byte} {j : Nat} (hj : j < 8) :
    (pad m).getD (m.length + 1 + padZeros m.length + j) 0 = (be64Bytes (BitVec.ofNat 64 (8 * m.length)))[j] := by
  have hhead := length_pad_head m
  rw [pad_eq_append, List.getD_append_right _ _ _ _ (by omega), hhead, Nat.add_sub_cancel_left,
    List.getD_eq_getElem _ _ (by simpa using hj), Vector.getElem_toList]

/-- A block before the length field is one of the message and 0x80. -/
theorem blockAt_pad {m : List Byte} {k : Nat} (hk : 64 * (k + 1) ≤ m.length + 1 + padZeros m.length) :
    blockAt (pad m) k = blockAt (m ++ [0x80]) k :=
  blockAt_congr fun _ _ => getD_pad_of_lt (by omega)

/-- The block with the length field. -/
theorem blockAt_pad_last {m : List Byte} {k : Nat} (hk : 64 * k + 56 = m.length + 1 + padZeros m.length) :
    blockAt (pad m) k = withLengthField (blockAt (m ++ [0x80]) k) (BitVec.ofNat 64 (8 * m.length)) := by
  ext1 j hj
  rw [getElem_blockAt _ _ hj]
  by_cases hlow : j < 56
  · rw [getElem_withLengthField_of_lt _ _ hlow, getElem_blockAt _ _ hj, getD_pad_of_lt (by omega)]
  · obtain ⟨i, rfl⟩ := Nat.exists_eq_add_of_le (Nat.not_lt.mp hlow)
    have hi : i < 8 := by omega
    rw [getElem_withLengthField_add _ _ hi, ← Nat.add_assoc, hk, getD_pad_lengthField hi]

/-- FINISH passes to Compress the blocks of the padded message that are not passed yet (R76). -/
theorem blocks_pad {p : List Byte} {s : State} (hb : Buffered p s) : blocks (pad p) = blocks p ++ finalBlocks s := by
  have hlen := length_pad p
  have hbits : bitLength s = BitVec.ofNat 64 (8 * p.length) := by rw [bitLength_eq, hb.1]
  obtain ⟨q, hq⟩ : ∃ q, pad p = p ++ q := ⟨_, by rw [pad, List.append_assoc, List.append_assoc]⟩
  by_cases hn : p.length % 64 ≤ 55
  · have hk := padZeros_of_le hn
    have hnew : (p ++ q).length / 64 = p.length / 64 + 1 := by rw [← hq]; omega
    have hlast : blockAt (pad p) (p.length / 64) = withLengthField (bufWith 0x80 s) (bitLength s) := by
      rw [blockAt_pad_last (by omega), bufWith_of_buffered hb, hbits]
    rw [hq, blocks_append hnew, ← hq, finalBlocks_of_le (hb.1 ▸ hn), ← hlast]
    rfl
  · have hn : 55 < p.length % 64 := Nat.not_le.mp hn
    have hk := padZeros_of_gt hn
    have hnew : (p ++ q).length / 64 = p.length / 64 + 2 := by rw [← hq]; omega
    have hfirst : blockAt (pad p) (p.length / 64) = bufWith 0x80 s := by
      rw [blockAt_pad (by omega), bufWith_of_buffered hb]
    have hlast : blockAt (pad p) (p.length / 64 + 1) = withLengthField (Vector.replicate 64 0) (bitLength s) := by
      have hend : (p ++ [(0x80 : Byte)]).length ≤ 64 * (p.length / 64 + 1) := by
        rw [List.length_append, List.length_singleton]
        omega
      rw [blockAt_pad_last (by omega), blockAt_of_length_le hend, hbits]
    rw [hq, blocks_append hnew, ← hq, finalBlocks_of_gt (hb.1 ▸ hn), ← hfirst, ← hlast]
    rfl

/-- Streaming the rest `m` of a message passes the blocks that the first part `p` has not completed. -/
theorem blocks_append_passedBlocks {m p : List Byte} {s : State} (hb : Buffered p s)
    (hl : p.length + m.length ≤ 2 ^ 61 - 1) : blocks p ++ passedBlocks m s = blocks (pad (p ++ m)) := by
  induction m generalizing p s with
  | nil => rw [List.append_nil, blocks_pad hb, passedBlocks]
  | cons d m ih =>
    rw [List.length_cons] at hl
    have hne : s.len ≠ maxLen := by
      rw [Ne, len_eq_maxLen_iff, hb.1]
      omega
    have hl' : (p ++ [d]).length + m.length ≤ 2 ^ 61 - 1 := by
      rw [List.length_append, List.length_singleton]
      omega
    calc blocks p ++ passedBlocks (d :: m) s
        = blocks (p ++ [d]) ++ passedBlocks m (padAbsorb d s) := by
          rw [passedBlocks, ← List.append_assoc, ← blocks_concat hb]
      _ = blocks (pad (p ++ [d] ++ m)) := ih (buffered_padAbsorb hb hne d) hl'
      _ = blocks (pad (p ++ d :: m)) := by rw [List.append_assoc, List.singleton_append]

/-- BE64 read back: the value of the eight bytes, most significant first (R9). -/
theorem foldl_be64Bytes (v : BitVec 64) : (be64Bytes v).toList.foldl (fun n b => n * 256 + b.toNat) 0 = v.toNat := by
  have hv := v.isLt
  have hlist : (be64Bytes v).toList = [v.extractLsb' 56 8, v.extractLsb' 48 8, v.extractLsb' 40 8, v.extractLsb' 32 8,
    v.extractLsb' 24 8, v.extractLsb' 16 8, v.extractLsb' 8 8, v.extractLsb' 0 8] := rfl
  simp only [hlist, List.foldl_cons, List.foldl_nil, BitVec.extractLsb'_toNat, Nat.shiftRight_eq_div_pow]
  omega

end Sys2Proof.Machine
end

section
/-! PROOF. The statements on padding as derived from R71 to R76 (R73, R77, R78). -/

namespace Sys2Proof.Machine

/-- Settles O21: the length of the padding by `length_pad`, and its parts by `pad_eq_append`. -/
theorem padProperties : Obligations.PadProperties := by
  intro m hm
  have hlen := length_pad m
  have hzeros := padZeros_le m.length
  have hmod := length_add_padZeros_mod m.length
  have hmsg : pad m = m ++ ([0x80] ++ (List.replicate (padZeros m.length) 0 ++
      (be64Bytes (BitVec.ofNat 64 (8 * m.length))).toList)) := by
    simp only [pad, List.append_assoc]
  have htail : (pad m).drop ((pad m).length - 8) = (be64Bytes (BitVec.ofNat 64 (8 * m.length))).toList := by
    rw [pad_eq_append, List.length_append, Vector.length_toList, Nat.add_sub_cancel, List.drop_left]
  refine ⟨by omega, by omega, by omega, ?_, ?_, ?_, ?_, length_blocks _⟩
  · rw [htail, foldl_be64Bytes, toNat_bitLengthField hm]
  · rw [hmsg, List.take_left]
  · rw [hmsg, List.getElem?_append_right le_rfl, Nat.sub_self]
    rfl
  · rw [length_blocks]
    omega

/-- The blocks FINISH compresses by residue of L (R78). -/
theorem length_finalBlocks (s : State) : (finalBlocks s).length = if s.len.toNat % 64 ≤ 55 then 1 else 2 := by
  split
  · next hn => rw [finalBlocks_of_le hn, List.length_singleton]
  · next hn => rw [finalBlocks_of_gt (Nat.not_le.mp hn), List.length_cons, List.length_singleton]

theorem compressCount_finish {w : CmdWord} {s : State} (hd : decode w = .ok .finish) (hs : s.phase = .absorb) :
    compressCount w s = (finalBlocks s).length := by
  simp only [compressCount, hd, if_pos hs]

/-- Settles O23: the two cases of `padZeros`, and one or two final blocks. -/
theorem paddingByResidue : Obligations.PaddingByResidue := by
  refine fun m => ⟨padZeros_of_le, padZeros_of_gt, length_pad m, fun s hs hl => ?_⟩
  rw [compressCount_finish (decode_encode trivial) hs, length_finalBlocks, hl]

/-- Settles O24: the stream starts with no bytes, whose blocks are none. -/
theorem streamingPadsTheMessage : Obligations.StreamingPadsTheMessage := by
  intro m s hm hl hb
  exact blocks_append_passedBlocks (p := []) (buffered_nil hl hb) (by simpa using hm)

end Sys2Proof.Machine
end

section
/-! PROOF. The statements on the message the registers stand for, and on whole computations (R32, R37, R49, R104). -/

namespace Sys2Proof.Machine

section trackedMessage
variable {m : List Byte} {s : State}

theorem tracks_absorb_iff (hs : s.phase = .absorb) :
    Tracks m s ↔ s.len.toNat = m.length ∧ s.err = .noError ∧ OpenOn m s := by
  simp only [Tracks, hs]

theorem tracks_done_iff (hs : s.phase = .done) :
    Tracks m s ↔ s.len.toNat = m.length ∧ s.err = .noError ∧ FinishedOn m s := by
  simp only [Tracks, hs]

theorem tracks_error_iff (hs : s.phase = .error) :
    Tracks m s ↔ s.len.toNat = m.length ∧ s.err ≠ .noError ∧ (OpenOn m s ∨ FinishedOn m s) := by
  simp only [Tracks, hs]

theorem tracks_respond (ht : Tracks m s) (ok : Bool) (data : Word) : Tracks m (respond ok data s) := ht

/-- A fresh state is that of a computation over no bytes (R133). -/
theorem tracks_nil_of_fresh (hr : SameRegisters s State.reset) : Tracks [] s := by
  have hb : Buffered [] s := buffered_nil hr.len hr.buf
  exact (tracks_absorb_iff hr.phase).mpr ⟨hb.1, hr.err, hr.h, hb.2⟩

theorem tracks_padAbsorb (ht : Tracks m s) (hs : s.phase = .absorb) (hl : s.len ≠ maxLen) (d : Byte) :
    Tracks (m ++ [d]) (padAbsorb d s) := by
  obtain ⟨hlen, herr, hh, hbuf⟩ := (tracks_absorb_iff hs).mp ht
  have hb : Buffered m s := ⟨hlen, hbuf⟩
  obtain ⟨hlen', hbuf'⟩ := buffered_padAbsorb hb hl d
  refine (tracks_absorb_iff ((padAbsorb_phase d s).trans hs)).mpr ⟨hlen', (padAbsorb_err d s).trans herr, ?_, hbuf'⟩
  rw [padAbsorb_h, blocks_concat hb, compressBlocks_append, hh]

theorem tracks_padFinal (ht : Tracks m s) (hs : s.phase = .absorb) : Tracks m { padFinal s with phase := .done } := by
  obtain ⟨hlen, herr, hh, hbuf⟩ := (tracks_absorb_iff hs).mp ht
  refine (tracks_done_iff rfl).mpr ⟨?_, (padFinal_err s).trans herr, ?_, padFinal_buf s⟩
  · rw [← hlen]
    exact congrArg BitVec.toNat (padFinal_len s)
  · calc (padFinal s).h = compressBlocks (compressBlocks initialValues (blocks m)) (finalBlocks s) := by
          rw [padFinal_h, hh]
      _ = hashState m := by rw [hashState, blocks_pad ⟨hlen, hbuf⟩, compressBlocks_append]

/-- Error entry keeps H, L and buf, of a finished message or not (R121). -/
theorem tracks_raised (ht : Tracks m s) (hs : s.phase ≠ .error) {code : ErrorCode} (hc : code ≠ .noError) :
    Tracks m (respond false 0 { s with phase := .error, err := code }) := by
  obtain hp | hp | hp := phase_cases s
  · obtain ⟨hlen, -, hopen⟩ := (tracks_absorb_iff hp).mp ht
    exact (tracks_error_iff rfl).mpr ⟨hlen, hc, .inl hopen⟩
  · obtain ⟨hlen, -, hfin⟩ := (tracks_done_iff hp).mp ht
    exact (tracks_error_iff rfl).mpr ⟨hlen, hc, .inr hfin⟩
  · exact absurd hp hs

/-- A word that does not act leaves the message as it is (R37). -/
theorem messageAfter_of_not_acts {w : CmdWord} (ha : ¬ Acts w s) (m : List Byte) : messageAfter w s m = m := by
  unfold messageAfter
  split
  case h_3 hd => exact absurd (.inl hd) ha
  case h_4 d hd => exact if_neg fun hact => ha (.inr (.inl ⟨d, hd, hact⟩))
  all_goals rfl

theorem tracks_perform {w : CmdWord} {t : State} (ht : Tracks m s) (hw : perform w s = .next t) :
    Tracks (messageAfter w s m) t := by
  have ha := wordAnswer_perform w s
  rw [hw] at ha
  cases ha with
  | begins hd =>
    simp only [messageAfter, hd]
    exact tracks_nil_of_fresh (sameRegisters_init s)
  | absorbs d hd hs hl =>
    simp only [messageAfter, hd, if_pos (And.intro hs hl)]
    exact tracks_respond (tracks_padAbsorb ht hs hl d) true 0
  | finishes hd hs =>
    simp only [messageAfter, hd]
    exact tracks_respond (tracks_padFinal ht hs) true 0
  | answers ok data hna =>
    rw [messageAfter_of_not_acts hna]
    exact tracks_respond ht ok data
  | raises code hna hs hc =>
    rw [messageAfter_of_not_acts hna]
    exact tracks_raised ht hs hc

end trackedMessage

/-- Settles O43: each answer of `WordAnswer` keeps the registers those of the message after the word. -/
theorem registersTrackTheMessage : Obligations.RegistersTrackTheMessage := by
  intro w s m ht
  obtain ⟨t, hw⟩ := perform_total w s
  exact ⟨t, hw, tracks_perform ht hw⟩

/-- Settles O44: the reset state is fresh. -/
theorem resetTracksTheEmptyMessage : Obligations.ResetTracksTheEmptyMessage :=
  tracks_nil_of_fresh ⟨rfl, rfl, rfl, rfl, rfl⟩

theorem play_cons {w : CmdWord} {s t : State} (hw : perform w s = .next t) (ws : List CmdWord) :
    play (w :: ws) s = (t.resp.toList ++ (play ws t).1, (play ws t).2) := by
  simp only [play, hw]

theorem perform_encode {i : Instr} (hi : i.WellFormed) (s : State) : perform (encode i) s = exec i s :=
  perform_of_ok (decode_encode hi) s

/-- FINISH at the end of a message within the limit, after one ABSORB for each byte of its rest `m` (R104). -/
theorem play_absorbs_finish {m p : List Byte} {s : State} (ht : Tracks p s) (hs : s.phase = .absorb)
    (hl : p.length + m.length ≤ 2 ^ 61 - 1) :
    ∃ t, play ((m.map Instr.absorb ++ [Instr.finish]).map encode) s = (List.replicate (m.length + 1) ⟨true, 0⟩, t) ∧
      t.phase = .done ∧ Tracks (p ++ m) t := by
  induction m generalizing p s with
  | nil =>
    have hw := (perform_encode (i := .finish) trivial s).trans (exec_finish_of_absorb hs)
    refine ⟨_, play_cons hw [], rfl, ?_⟩
    rw [List.append_nil]
    exact tracks_respond (tracks_padFinal ht hs) true 0
  | cons d m ih =>
    rw [List.length_cons] at hl
    have hlen : s.len.toNat = p.length := ((tracks_absorb_iff hs).mp ht).1
    have hne : s.len ≠ maxLen := by
      rw [Ne, len_eq_maxLen_iff]
      omega
    have hl' : (p ++ [d]).length + m.length ≤ 2 ^ 61 - 1 := by
      rw [List.length_append, List.length_singleton]
      omega
    have hw := (perform_encode (i := .absorb d) trivial s).trans (exec_absorb_of_ne_maxLen d hs hne)
    obtain ⟨t, hplay, hdone, htr⟩ :=
      ih (tracks_respond (tracks_padAbsorb ht hs hne d) true 0) ((padAbsorb_phase d s).trans hs) hl'
    refine ⟨t, ?_, hdone, by rwa [List.append_assoc, List.singleton_append] at htr⟩
    rw [List.map_cons, List.cons_append, List.map_cons, play_cons hw, hplay]
    rfl

theorem sha256_of_le {m : List Byte} (hm : m.length ≤ 2 ^ 61 - 1) : sha256 m = some (formatDigest (hashState m)) :=
  if_pos hm

theorem sha256Hex_of_le {m : List Byte} (hm : m.length ≤ 2 ^ 61 - 1) : sha256Hex m = some (hexDigest (hashState m)) :=
  if_pos hm

/-- INIT makes any state one of the empty message; the words after it are those of `play_absorbs_finish` (R104). -/
theorem play_hashWords (s : State) {m : List Byte} (hm : m.length ≤ 2 ^ 61 - 1) :
    ∃ t, play (hashWords m) s = (List.replicate (m.length + 2) ⟨true, 0⟩, t) ∧ t.phase = .done ∧ Tracks m t := by
  have hw : perform (encode .init) s = succeed 0 (beginComputation s) := perform_encode trivial s
  obtain ⟨t, hplay, hdone, htr⟩ := play_absorbs_finish (m := m) (p := []) (s := respond true 0 (beginComputation s))
    (tracks_nil_of_fresh (sameRegisters_init s)) rfl (by simpa using hm)
  refine ⟨t, ?_, hdone, htr⟩
  have hwords : hashWords m = encode .init :: (m.map Instr.absorb ++ [Instr.finish]).map encode := rfl
  rw [hwords, play_cons hw, hplay]
  rfl

/-- Settles O45: the state the sequence leaves is that of the finished message, and the reads return its digest. -/
theorem commandSequenceComputesSha256 : Obligations.CommandSequenceComputesSha256 := by
  intro s m hm
  obtain ⟨t, hplay, hdone, htr⟩ := play_hashWords s hm
  obtain ⟨hlen, herr, hh, -⟩ := (tracks_done_iff hdone).mp htr
  refine ⟨t, formatDigest (hashState m), hexDigest (hashState m), hplay, hdone, herr, hlen, sha256_of_le hm,
    sha256Hex_of_le hm, by rw [hh], fun k => ?_, fun c => ?_⟩
  · rw [exec_rdb_of_lt hdone k.isLt, ← hh]
    rfl
  · rw [exec_rdh_of_lt hdone c.isLt, ← hh]
    rfl

end Sys2Proof.Machine
end

section
/-! PROOF. The statements on the digest formatter that follow from R98 to R100, and on the constants (R42, R96, R97, R101). -/

namespace Sys2Proof.Machine

theorem hexValue_hexDigit : ∀ v : BitVec 4, hexValue (hexDigit v) = v := by
  decide

theorem append_nibbles (b : Byte) : b.extractLsb' 4 4 ++ b.extractLsb' 0 4 = b :=
  (BitVec.extractLsb'_append_extractLsb'_eq_extractLsb' rfl).trans BitVec.extractLsb'_eq_self

/-- A field of a field is a field of the word. -/
theorem extractLsb'_extractLsb'_add {w start len start' len' : Nat} (x : BitVec w) (hfit : start' + len' ≤ len) :
    (x.extractLsb' start len).extractLsb' start' len' = x.extractLsb' (start + start') len' := by
  ext i hi
  have hin : start' + i < len := by omega
  rw [BitVec.getElem_extractLsb', BitVec.getLsbD_extractLsb', BitVec.getElem_extractLsb', decide_eq_true hin,
    Bool.true_and, Nat.add_assoc]

/-- Settles O27: the two characters of a byte are the digits of its nibbles (`hexDigestCharacters`), which `hexValue` reads
back. -/
theorem hexDigestReadsBack : Obligations.HexDigestReadsBack := by
  intro h
  ext1 m hm
  obtain ⟨hhigh, hlow⟩ := hexDigestCharacters.2 h ⟨m, hm⟩
  rw [readHexDigest, Vector.getElem_ofFn]
  simp only [hhigh, hlow, hexValue_hexDigit, append_nibbles]

/-- Settles O60: character c is a nibble of byte c / 2, which is a byte of word c / 8. -/
theorem hexCharacterIsNibble : Obligations.HexCharacterIsNibble := by
  intro h c
  have hword : c.val / 2 / 4 = c.val / 8 := by omega
  have hstart : 24 - 8 * (c.val / 2 % 4) + (4 - 4 * (c.val % 2)) = 28 - 4 * (c.val % 8) := by omega
  have hfit : 4 - 4 * (c.val % 2) + 4 ≤ 8 := by omega
  rw [getElem_hexDigest h c.isLt, getElem_formatDigest h (by omega), extractLsb'_extractLsb'_add _ hfit]
  simp only [hword, hstart]

/-- A word is the sum of its bytes, each at its place (R7, R38). -/
theorem word_eq_sum_bytes (x : Word) :
    x = BitVec.ofNat 32 ((x.extractLsb' 24 8).toNat * 2 ^ 24 + (x.extractLsb' 16 8).toNat * 2 ^ 16 +
      (x.extractLsb' 8 8).toNat * 2 ^ 8 + (x.extractLsb' 0 8).toNat) := by
  have hx := x.isLt
  apply BitVec.eq_of_toNat_eq
  simp only [BitVec.extractLsb'_toNat, Nat.shiftRight_eq_div_pow, BitVec.toNat_ofNat]
  omega

theorem toNat_zextByte (b : Byte) : (zextByte b).toNat = b.toNat :=
  BitVec.toNat_setWidth_of_le (by decide)

theorem toNat_zextByte_lt (b : Byte) : (zextByte b).toNat < 256 := by
  rw [toNat_zextByte]
  exact b.isLt

/-- RDB of byte j of state word k in DONE (R42, R114). -/
theorem exec_rdb_word {s : State} (hs : s.phase = .done) (k : Fin 8) {j : Nat} (hj : j < 4) :
    exec (.rdb (4 * k.val + j)) s =
      .next { s with resp := some ⟨true, zextByte (s.h[k.val].extractLsb' (24 - 8 * j) 8)⟩ } := by
  have hbyte := digestIsBigEndianWords s.h |>.2 k ⟨j, hj⟩
  rw [exec_rdb_of_lt hs (by omega), hbyte, succeed_def]

/-- Settles O42: the four bytes are those of the word, and the word is their sum. -/
theorem wordAndByteReadsAgree : Obligations.WordAndByteReadsAgree := by
  intro s k hs
  refine ⟨_, _, _, _, exec_rdb_word hs k (j := 0) (by decide), exec_rdb_word hs k (by decide),
    exec_rdb_word hs k (by decide), exec_rdb_word hs k (by decide), ?_, toNat_zextByte_lt _, toNat_zextByte_lt _,
    toNat_zextByte_lt _, toNat_zextByte_lt _⟩
  rw [exec_rdw_of_lt (ne_error_of_done hs) k.isLt, succeed_def]
  simp only [toNat_zextByte]
  rw [← word_eq_sum_bytes]

/-- Trial division by the numbers from 2 to 17, enough for numbers below 18². -/
def trialPrime (n : Nat) : Bool := Nat.ble 2 n && (List.range' 2 16).all fun m => Nat.blt n (m * m) || n % m != 0

theorem trialPrime_iff {n : Nat} (hn : n < 18 ^ 2) : trialPrime n = true ↔ n.Prime := by
  have hsqrt {m : Nat} (hm : m ≤ n.sqrt) : m < 18 := by
    have hsq := Nat.le_sqrt'.mp hm
    exact lt_of_pow_lt_pow_left₀ 2 (by decide) (hsq.trans_lt hn)
  rw [Nat.prime_def_le_sqrt]
  simp only [trialPrime, Bool.and_eq_true, Nat.ble_eq, List.all_eq_true, List.mem_range'_1,
    Bool.or_eq_true, Nat.blt_eq, bne_iff_ne]
  refine and_congr_right fun _ => ⟨fun h m hm hle hdvd => ?_, fun h m hm => ?_⟩
  · have hsq := Nat.le_sqrt.mp hle
    obtain hlt | hne := h m ⟨hm, hsqrt hle⟩
    · exact absurd hsq hlt.not_ge
    · exact hne (Nat.mod_eq_zero_of_dvd hdvd)
  · by_cases hlt : n < m * m
    · exact .inl hlt
    · exact .inr fun hmod => h m hm.1 (Nat.le_sqrt.mpr (Nat.not_lt.mp hlt)) (Nat.dvd_of_mod_eq_zero hmod)

/-- R96: the list against trial division. -/
theorem romPrimes_eq_filter : romPrimes.toList = (List.range 312).filter trialPrime := by
  decide +kernel

theorem romPrimes_sorted : romPrimes.toList.Pairwise (· < ·) := by
  rw [romPrimes_eq_filter]
  exact List.pairwise_lt_range.filter _

/-- Settles O18: the list is the primes below 312 as trial division finds them, in rising order. -/
theorem romPrimesAreTheFirst : Obligations.RomPrimesAreTheFirst := by
  refine ⟨romPrimes_sorted, fun n => ?_⟩
  rw [romPrimes_eq_filter, List.mem_filter, List.mem_range]
  constructor
  · rintro ⟨hn, ht⟩
    exact ⟨(trialPrime_iff (by omega)).mp ht, by omega⟩
  · rintro ⟨hp, hn⟩
    exact ⟨by omega, (trialPrime_iff (by omega)).mpr hp⟩

/-- R97's audit: the ROM word by word against the integer square root. -/
theorem toNat_initialValues :
    ∀ k : Fin 8, initialValues[k.val].toNat = Nat.sqrt (romPrimes[k.val] * 2 ^ 64) % 2 ^ 32 := by
  decide +kernel

/-- Settles O19: the bounds are those of an integer square root. -/
theorem initialValuesFromSquareRoots : Obligations.InitialValuesFromSquareRoots :=
  ⟨rfl, fun k => ⟨Nat.sqrt (romPrimes[k.val] * 2 ^ 64), Nat.sqrt_le' _, Nat.lt_succ_sqrt' _, toNat_initialValues k⟩⟩

end Sys2Proof.Machine
end

section
/-! PROOF. The statement on compressions and latency (R140, R143). -/

namespace Sys2Proof.Machine

/-- What a run of compressions of the blocks `bs` leaves in the engine `e` (R29, notes/assumptions/2.md). -/
def EngineAfter (bs : List Block) (e e' : Engine) : Prop :=
  (bs = [] → e' = e) ∧ ∀ b, bs.getLast? = some b → e'.w = schedule b ∧ e'.rc = 64 ∧ e'.busy = false

theorem engineAfter_nil (e : Engine) : EngineAfter [] e e := ⟨fun _ => rfl, nofun⟩

theorem engineAfter_compressBlock (bs : List Block) (b : Block) (s : State) (e : Engine) :
    EngineAfter (bs ++ [b]) e (compressBlock b s).engine := by
  refine ⟨fun hnil => absurd hnil (by simp), fun c hc => ?_⟩
  rw [List.getLast?_concat] at hc
  cases hc
  simp [run_eq]

theorem engineAfter_padAbsorb (d : Byte) (s : State) : EngineAfter (completedBlocks d s) s.engine (padAbsorb d s).engine := by
  by_cases hn : bcnt s = 63
  · rw [padAbsorb_of_eq d hn, completedBlocks, if_pos hn]
    exact engineAfter_compressBlock [] _ _ _
  · rw [padAbsorb_of_ne d hn, completedBlocks, if_neg hn]
    exact engineAfter_nil _

theorem engineAfter_padFinal (s : State) : EngineAfter (finalBlocks s) s.engine (padFinal s).engine := by
  unfold padFinal
  generalize finalBlocks s = bs
  obtain rfl | ⟨bs, b, rfl⟩ := List.eq_nil_or_concat bs
  · exact engineAfter_nil _
  · rw [List.concat_eq_append, List.foldl_concat]
    exact engineAfter_compressBlock bs b _ _

theorem compressCount_of_not_acts {w : CmdWord} {s : State} (ha : ¬ Acts w s) : compressCount w s = 0 := by
  unfold compressCount
  split
  case h_4 d hd => exact if_neg fun hact => ha (.inr (.inl ⟨d, hd, hact⟩))
  case h_5 hd => exact if_neg fun hs => ha (.inr (.inr ⟨hd, hs⟩))
  all_goals rfl

theorem compressCount_init {w : CmdWord} (hd : decode w = .ok .init) (s : State) : compressCount w s = 0 := by
  simp only [compressCount, hd]

theorem compressCount_absorb {w : CmdWord} {d : Byte} (hd : decode w = .ok (.absorb d)) (s : State) :
    compressCount w s = if s.phase = .absorb ∧ s.len ≠ maxLen then (completedBlocks d s).length else 0 := by
  simp only [compressCount, hd]

theorem length_completedBlocks (d : Byte) (s : State) : (completedBlocks d s).length = if bcnt s = 63 then 1 else 0 := by
  unfold completedBlocks
  split
  · rfl
  · rfl

/-- The blocks a word passes to Compress, and what they leave in H and in the engine (R92, R93). -/
theorem perform_compresses {w : CmdWord} {s t : State} (ht : perform w s = .next t) :
    ∃ bs, bs.length = compressCount w s ∧
      t.h = (if decode w = .ok .init then initialValues else compressBlocks s.h bs) ∧ EngineAfter bs s.engine t.engine := by
  have ha := wordAnswer_perform w s
  rw [ht] at ha
  cases ha with
  | begins hd => exact ⟨[], (compressCount_init hd s).symm, (if_pos hd).symm, engineAfter_nil _⟩
  | absorbs d hd hs hl =>
    have hcount : compressCount w s = (completedBlocks d s).length := (compressCount_absorb hd s).trans (if_pos ⟨hs, hl⟩)
    have hh : (padAbsorb d s).h = if decode w = .ok .init then initialValues else compressBlocks s.h (completedBlocks d s) := by
      rw [padAbsorb_h, if_neg (by simp [hd])]
    exact ⟨_, hcount.symm, hh, engineAfter_padAbsorb d s⟩
  | finishes hd hs =>
    have hh : (padFinal s).h = if decode w = .ok .init then initialValues else compressBlocks s.h (finalBlocks s) := by
      rw [padFinal_h, if_neg (by simp [hd])]
    exact ⟨_, (compressCount_finish hd hs).symm, hh, engineAfter_padFinal s⟩
  | answers ok data hna =>
    exact ⟨[], (compressCount_of_not_acts hna).symm, (if_neg fun hd => hna (.inl hd)).symm, engineAfter_nil _⟩
  | raises code hna =>
    exact ⟨[], (compressCount_of_not_acts hna).symm, (if_neg fun hd => hna (.inl hd)).symm, engineAfter_nil _⟩

theorem compressCount_le_two (w : CmdWord) (s : State) : compressCount w s ≤ 2 := by
  by_cases ha : Acts w s
  · obtain hd | ⟨d, hd, hact⟩ | ⟨hd, hs⟩ := ha
    · rw [compressCount_init hd]
      exact Nat.zero_le 2
    · rw [compressCount_absorb hd, if_pos hact, length_completedBlocks]
      split
      · exact Nat.le_succ 1
      · exact Nat.zero_le 2
    · rw [compressCount_finish hd hs, length_finalBlocks]
      split
      · exact Nat.le_succ 1
      · exact le_rfl
  · rw [compressCount_of_not_acts ha]
    exact Nat.zero_le 2

section count
variable {s t : State} (hphase : s.phase = t.phase) (hlen : s.len = t.len)
include hphase hlen

/-- The count looks at the phase and L only, by the lengths of `completedBlocks` and `finalBlocks` (R143). -/
theorem compressCount_congr (w : CmdWord) : compressCount w s = compressCount w t := by
  cases hd : decode w with
  | error e => simp only [compressCount, hd]
  | ok i =>
    cases i with
    | absorb d =>
      rw [compressCount_absorb hd, compressCount_absorb hd, length_completedBlocks, length_completedBlocks, bcnt, bcnt,
        hphase, hlen]
    | finish => simp only [compressCount, hd, length_finalBlocks, hphase, hlen]
    | nop | init | rdstat | rdw | rdb | rdh | rdl => simp only [compressCount, hd]

theorem latency_congr (w : CmdWord) : latency w s = latency w t := by
  rw [latency, latency, compressCount_congr hphase hlen]

end count

/-- Which byte ABSORB takes in makes no difference (R143). -/
theorem compressCount_encode_absorb (d d' : Byte) (s : State) :
    compressCount (encode (.absorb d)) s = compressCount (encode (.absorb d')) s := by
  simp only [compressCount_absorb (decode_encode (i := .absorb _) trivial), length_completedBlocks]

theorem latency_encode_absorb (d d' : Byte) (s : State) :
    latency (encode (.absorb d)) s = latency (encode (.absorb d')) s := by
  have hop (b : Byte) : opField (encode (.absorb b)) = 2 := opField_packFields 2 0 b
  rw [latency, latency, hop, hop, compressCount_encode_absorb d d']

/-- Settles O56: `perform_compresses`, and the count as a function of the word's command, the phase and L. -/
theorem latencyIgnoresData : Obligations.LatencyIgnoresData := by
  refine ⟨fun w s => ?_, fun w s => ⟨compressCount_le_two w s, rfl⟩, fun s t hphase hlen =>
    ⟨fun w => ⟨compressCount_congr hphase hlen w, latency_congr hphase hlen w⟩, fun d d' => ⟨?_, ?_⟩⟩⟩
  · obtain ⟨t, ht⟩ := perform_total w s
    obtain ⟨bs, hcount, hh, heng⟩ := perform_compresses ht
    exact ⟨t, bs, ht, hcount, hh, heng⟩
  · rw [compressCount_congr hphase hlen, compressCount_encode_absorb d d']
  · rw [latency_congr hphase hlen, latency_encode_absorb d d']

end Sys2Proof.Machine
end

section
/-! PROOF. The statements on the ports and on several instances (R34, R49, R54, R130, R138). -/

namespace Sys2Proof.Machine

theorem stepped_of_next {s t : State} (ht : step s = .next t) : stepped s = t := by
  simp only [stepped, ht]

theorem step_eq_next_stepped (s : State) : step s = .next (stepped s) := by
  obtain ⟨t, ht⟩ := step_total s
  rw [ht, stepped_of_next ht]

/-- A run never stops, so it is the iterated step. -/
theorem run_eq_next_steppedTimes (n : Nat) (s : State) : core.run n s = .next (steppedTimes s n) := by
  induction n generalizing s with
  | zero => rfl
  | succ n ih =>
    have hst : core.step s = .next (stepped s) := step_eq_next_stepped s
    simp only [Host.Core.run, hst]
    exact ih (stepped s)

theorem steppedTimes_add (s : State) (a b : Nat) : steppedTimes s (a + b) = steppedTimes (steppedTimes s a) b := by
  induction a generalizing s with
  | zero => rw [Nat.zero_add, steppedTimes]
  | succ a ih => rw [Nat.succ_add, steppedTimes, ih, steppedTimes]

theorem steppedTimes_of_fixed {s : State} (hs : stepped s = s) (n : Nat) : steppedTimes s n = s := by
  induction n with
  | zero => rfl
  | succ n ih => rw [steppedTimes, hs, ih]

/-- Nothing is on the ports and no compression is in progress. -/
structure Idle (s : State) : Prop where
  cmd : s.cmd = none
  resp : s.resp = none
  busy : s.engine.busy = false

theorem acceptable_eq_none_of_cmd {s : State} (hc : s.cmd = none) : acceptable s = none := by
  cases hw : acceptable s with
  | none => rfl
  | some v =>
    obtain ⟨hcmd, -, -⟩ := (acceptable_eq_some_iff s v).mp hw
    simp [hc] at hcmd

/-- Without a word and with a host that has nothing to do, nothing happens (R135). -/
theorem stepped_of_idle {s : State} (hc : s.cmd = none) (hs : s.host.script = []) : stepped s = s :=
  stepped_of_next ((step_of_none (acceptable_eq_none_of_cmd hc)).trans (congrArg _ (hostMove_idle hs)))

/-- Performing a word ends with BUSY = 0 if it begins so (R29). -/
theorem perform_busy {w : CmdWord} {s t : State} (ht : perform w s = .next t) (hb : s.engine.busy = false) :
    t.engine.busy = false := by
  obtain ⟨bs, -, -, hnil, hlast⟩ := perform_compresses ht
  cases hbs : bs.getLast? with
  | none => rw [hnil (List.getLast?_eq_none_iff.mp hbs), hb]
  | some b => exact (hlast b hbs).2.2

/-- The host presents a word on the free port. -/
theorem stepped_present {s : State} {w : CmdWord} {rest : List HostAction} (hc : s.cmd = none)
    (hs : s.host.script = .present w :: rest) : stepped s = { dropAction s with cmd := some w } := by
  apply stepped_of_next
  rw [step_of_none (acceptable_eq_none_of_cmd hc), hostMove_present hs, presentWord_of_none hc]

/-- The presented word is accepted and performed. -/
theorem stepped_accept {s t : State} {w : CmdWord} (hw : acceptable s = some w)
    (hc : s.host.script.head? ≠ some .resetDuring) (ht : perform w (consumeWord s) = .next t) : stepped s = t :=
  stepped_of_next ((step_of_accept hw hc).trans ht)

/-- The host takes the response. -/
theorem stepped_take {s : State} {rest : List HostAction} (hc : s.cmd = none) (hs : s.host.script = .take :: rest) :
    stepped s = takeResponse s := by
  apply stepped_of_next
  rw [step_of_none (acceptable_eq_none_of_cmd hc), hostMove_take hs]

/-- A host that presents a word and takes its response: three steps, in which the word is performed on the registers (R54,
R138). -/
theorem steppedTimes_three {s u : State} {w : CmdWord} {rest : List HostAction} (hi : Idle s) (ha : Alike s u)
    (hs : s.host.script = .present w :: .take :: rest) :
    ∃ u' r, perform w u = .next u' ∧ u'.resp = some r ∧ Idle (steppedTimes s 3) ∧ Alike (steppedTimes s 3) u' ∧
      (steppedTimes s 3).host = ⟨rest, s.host.taken ++ [r]⟩ := by
  obtain ⟨hcmd, hresp, hbusy⟩ := hi
  have hscript : (dropAction s).host.script = .take :: rest := congrArg List.tail hs
  have hconsumed : Alike (consumeWord (dropAction s)) u :=
    ⟨⟨ha.registers.h, ha.registers.len, ha.registers.buf, ha.registers.phase, ha.registers.err⟩, ha.busy⟩
  obtain ⟨t, u', ht, hu', halike, hsame⟩ := sameAnswer_perform hconsumed w
  obtain ⟨htcmd, hthost, htresp⟩ := perform_frame ht
  have htbusy : t.engine.busy = false := perform_busy ht hbusy
  obtain ⟨r, hr⟩ := Option.isSome_iff_exists.mp htresp
  have haccept : stepped { dropAction s with cmd := some w } = t := by
    refine stepped_accept ((acceptable_eq_some_iff _ w).mpr ⟨rfl, hresp, hbusy⟩) ?_ ht
    rw [hscript]
    exact nofun
  have hst : steppedTimes s 3 = takeResponse t := by
    simp only [steppedTimes]
    rw [stepped_present hcmd hs, haccept, stepped_take htcmd (hthost ▸ hscript)]
  rw [hst]
  refine ⟨u', r, hu', hsame.symm.trans hr, ⟨htcmd, rfl, htbusy⟩, ⟨⟨halike.registers.h, halike.registers.len,
    halike.registers.buf, halike.registers.phase, halike.registers.err⟩, halike.busy⟩, ?_⟩
  rw [takeResponse_host, hthost, hr]
  exact congrArg (HostSide.mk · _) (congrArg List.tail hscript)

/-- The run of a dutiful host beside the plain sequence of its words (R49, R54, R138). -/
theorem steppedTimes_dutiful {ws : List CmdWord} {s u : State} (hi : Idle s) (ha : Alike s u)
    (hs : s.host.script = dutifulScript ws) :
    let t := steppedTimes s (3 * ws.length)
    Idle t ∧ Alike t (play ws u).2 ∧ t.host = ⟨[], s.host.taken ++ (play ws u).1⟩ ∧ (play ws u).1.length = ws.length := by
  induction ws generalizing s u with
  | nil =>
    have hhost : s.host = ⟨[], s.host.taken ++ []⟩ := by
      rw [List.append_nil]
      exact congrArg (HostSide.mk · s.host.taken) hs
    exact ⟨hi, ha, hhost, rfl⟩
  | cons w ws ih =>
    obtain ⟨u', r, hu', hr, hi', ha', hhost'⟩ := steppedTimes_three hi ha (rest := dutifulScript ws) hs
    obtain ⟨hit, hat, hhost, hlen⟩ := ih hi' ha' (congrArg HostSide.script hhost')
    have hplay : play (w :: ws) u = (r :: (play ws u').1, (play ws u').2) := by
      rw [play_cons hu', hr]
      rfl
    have hsteps : steppedTimes s (3 * (w :: ws).length) = steppedTimes (steppedTimes s 3) (3 * ws.length) := by
      rw [← steppedTimes_add, List.length_cons, Nat.mul_succ, Nat.add_comm]
    rw [hsteps, hplay]
    refine ⟨hit, hat, ?_, ?_⟩
    · rw [hhost, hhost', List.append_assoc, List.singleton_append]
    · rw [List.length_cons, hlen, List.length_cons]

theorem alike_refl (s : State) : Alike s s := ⟨⟨rfl, rfl, rfl, rfl, rfl⟩, rfl⟩

/-- Settles O46: `steppedTimes_dutiful` beside the sequence from the same state. -/
theorem portsDeliverEveryResponse : Obligations.PortsDeliverEveryResponse := by
  intro ws s hcmd hresp hbusy hs
  obtain ⟨-, ha, hhost, hlen⟩ := steppedTimes_dutiful ⟨hcmd, hresp, hbusy⟩ (alike_refl s) hs
  exact ⟨_, run_eq_next_steppedTimes _ s, ha.registers, congrArg HostSide.script hhost, congrArg HostSide.taken hhost, hlen⟩

/-- The turns of the others do not touch the state at position j (R34). -/
theorem getElem?_runSchedule (all : Instances) (order : List Nat) (j : Nat) :
    (runSchedule all order)[j]? = (all[j]?).map fun s => steppedTimes s (order.count j) := by
  induction order generalizing all with
  | nil => simp [runSchedule, steppedTimes]
  | cons k order ih =>
    have hrun : runSchedule all (k :: order) = runSchedule (stepInstance all k) order := rfl
    rw [hrun, ih, stepInstance, List.getElem?_modify, List.count_cons]
    by_cases hk : k = j
    · subst hk
      simp [steppedTimes, Function.comp_def]
    · simp [hk]

theorem length_hashWords (m : List Byte) : (hashWords m).length = m.length + 2 := by
  simp [hashWords, expand]

/-- A host that presents the commands of a message and takes the responses, and then has nothing to do (R104, R138). -/
theorem steppedTimes_hash {s : State} {m : List Byte} {n : Nat} (hi : Idle s)
    (hs : s.host.script = dutifulScript (hashWords m)) (hm : m.length ≤ 2 ^ 61 - 1) (hn : 3 * (m.length + 2) ≤ n) :
    let t := steppedTimes s n
    t.phase = .done ∧ t.err = .noError ∧ sha256 m = some (formatDigest t.h) ∧
      t.host.taken = s.host.taken ++ List.replicate (m.length + 2) ⟨true, 0⟩ := by
  obtain ⟨extra, rfl⟩ := Nat.exists_eq_add_of_le hn
  obtain ⟨u, hplay, hdone, htr⟩ := play_hashWords s hm
  obtain ⟨-, herr, hh, -⟩ := (tracks_done_iff hdone).mp htr
  obtain ⟨hit, hat, hhost, -⟩ := steppedTimes_dutiful hi (alike_refl s) hs
  rw [hplay, length_hashWords] at hat
  rw [hplay, length_hashWords] at hhost
  rw [length_hashWords] at hit
  rw [steppedTimes_add, steppedTimes_of_fixed (stepped_of_idle hit.cmd (congrArg HostSide.script hhost))]
  refine ⟨hat.registers.phase.trans hdone, hat.registers.err.trans herr, ?_, congrArg HostSide.taken hhost⟩
  rw [sha256_of_le hm, hat.registers.h, hh]

/-- Settles O55: each position makes its own steps only, and these are the ones of `steppedTimes_hash`. -/
theorem instancesAreIndependent : Obligations.InstancesAreIndependent := by
  refine ⟨getElem?_runSchedule, fun all order j s m hj hcmd hresp hbusy hs hm hn => ?_⟩
  refine ⟨_, ?_, steppedTimes_hash ⟨hcmd, hresp, hbusy⟩ hs hm hn⟩
  rw [getElem?_runSchedule, hj, Option.map_some]

end Sys2Proof.Machine
end

section
/-! SUPPORT. The assembler (R63, R64): what it answers is well formed, and how a line of R63 is read part by part. -/

namespace Sys2Proof.Machine

/-- If a line assembles, every command of it is well formed. -/
def AllWellFormed (r : Except AsmError (List Instr)) : Prop := ∀ is, r = .ok is → ∀ i ∈ is, i.WellFormed

theorem allWellFormed_ok {is : List Instr} (hi : ∀ i ∈ is, i.WellFormed) : AllWellFormed (.ok is) := by
  rintro _ ⟨⟩
  exact hi

theorem allWellFormed_error (e : AsmError) : AllWellFormed (.error e) := nofun

theorem allWellFormed_atLineEnd {is : List Instr} (hi : ∀ i ∈ is, i.WellFormed) (rest : List Char) :
    AllWellFormed (atLineEnd is rest) := by
  unfold atLineEnd
  split
  · exact allWellFormed_ok hi
  · exact allWellFormed_error _

theorem wellFormed_of_mem_singleton {i j : Instr} (hi : i.WellFormed) (hj : j ∈ [i]) : j.WellFormed :=
  List.mem_singleton.mp hj ▸ hi

/-- A read of an element below n ≤ 256. -/
theorem wellFormed_of_mem_map_range {mk : Nat → Instr} {n : Nat} (hmk : ∀ k < 256, (mk k).WellFormed) (hn : n ≤ 256) :
    ∀ i ∈ (List.range n).map mk, i.WellFormed :=
  List.forall_mem_map.mpr fun k hk => hmk k ((List.mem_range.mp hk).trans_le hn)

theorem wellFormed_expand (p : Pseudo) : ∀ i ∈ expand p, i.WellFormed := by
  cases p with
  | absorbs bytes | absorbb bytes => exact List.forall_mem_map.mpr fun _ _ => trivial
  | hash bytes =>
    refine List.forall_mem_cons.mpr ⟨trivial, List.forall_mem_append.mpr ⟨?_, ?_⟩⟩
    · exact List.forall_mem_map.mpr fun _ _ => trivial
    · exact fun _ => wellFormed_of_mem_singleton (i := .finish) trivial
  | digest | hexdigest | state | length => exact wellFormed_of_mem_map_range (fun _ hk => hk) (by decide)

theorem readOperand_lt {cs rest : List Char} {v : Nat} (hr : readOperand cs = .ok (v, rest)) : v < 256 := by
  unfold readOperand at hr
  split at hr
  · cases hr
  · split at hr
    · next hv =>
      cases hr
      exact hv
    · cases hr

theorem allWellFormed_withOperand {mk : Nat → Instr} (hmk : ∀ k < 256, (mk k).WellFormed) (cs : List Char) :
    AllWellFormed (withOperand mk cs) := by
  unfold withOperand
  split
  · next v rest hr =>
    have hv : (mk v).WellFormed := hmk v (readOperand_lt hr)
    exact allWellFormed_atLineEnd (fun _ => wellFormed_of_mem_singleton hv) rest
  · exact allWellFormed_error _

theorem allWellFormed_withBytes (mk : List Byte → Pseudo) (cs : List Char) : AllWellFormed (withBytes mk cs) := by
  unfold withBytes
  split
  · exact allWellFormed_atLineEnd (wellFormed_expand _) _
  · exact allWellFormed_error _

theorem allWellFormed_assembleLine (line : List Char) : AllWellFormed (assembleLine line) := by
  have hplain {i : Instr} (hi : i.WellFormed) (rest : List Char) : AllWellFormed (atLineEnd [i] rest) :=
    allWellFormed_atLineEnd (fun _ => wellFormed_of_mem_singleton hi) rest
  have hpseudo (p : Pseudo) (rest : List Char) : AllWellFormed (atLineEnd (expand p) rest) :=
    allWellFormed_atLineEnd (wellFormed_expand p) rest
  unfold assembleLine
  dsimp only
  split
  · exact allWellFormed_ok nofun
  · split
    case h_1 | h_2 | h_4 | h_5 => exact hplain trivial _
    case h_3 =>
      split
      · exact hplain trivial _
      · exact allWellFormed_error _
    case h_6 | h_7 | h_8 | h_9 => exact allWellFormed_withOperand (fun _ hk => hk) _
    case h_10 =>
      split
      · split
        · exact hpseudo _ _
        · exact allWellFormed_error _
      · exact allWellFormed_error _
    case h_11 => exact allWellFormed_withBytes _ _
    case h_12 =>
      split
      · exact allWellFormed_ok (wellFormed_expand _)
      · exact allWellFormed_withBytes _ _
    case h_13 | h_14 | h_15 | h_16 => exact hpseudo _ _
    case h_17 => exact allWellFormed_error _

theorem assemble_cons_ok {l : List Char} {ls : List (List Char)} {is : List Instr} {ws : List CmdWord}
    (hl : assembleLine l = .ok is) (hls : assemble ls = .ok ws) : assemble (l :: ls) = .ok (is.map encode ++ ws) := by
  simp only [assemble, hl, hls]

theorem assemble_cons_error {l : List Char} {e : AsmError} (ls : List (List Char)) (hl : assembleLine l = .error e) :
    assemble (l :: ls) = .error e := by
  simp only [assemble, hl]

/-- A program assembles if its first line and the rest of it do. -/
theorem exists_of_assemble_cons {l : List Char} {ls : List (List Char)} {ws : List CmdWord}
    (h : assemble (l :: ls) = .ok ws) :
    ∃ is ws', assembleLine l = .ok is ∧ assemble ls = .ok ws' ∧ ws = is.map encode ++ ws' := by
  cases hl : assembleLine l with
  | error e => cases (assemble_cons_error ls hl).symm.trans h
  | ok is =>
    cases hls : assemble ls with
    | error e =>
      simp only [assemble, hl, hls] at h
      cases h
    | ok ws' =>
      cases (assemble_cons_ok hl hls).symm.trans h
      exact ⟨is, ws', rfl, rfl, rfl⟩

theorem decode_of_mem_assemble {lines : List (List Char)} {ws : List CmdWord} (h : assemble lines = .ok ws) :
    ∀ w ∈ ws, ∃ i, decode w = .ok i := by
  induction lines generalizing ws with
  | nil =>
    cases h
    exact nofun
  | cons l ls ih =>
    obtain ⟨is, ws', hl, hls, rfl⟩ := exists_of_assemble_cons h
    refine List.forall_mem_append.mpr ⟨List.forall_mem_map.mpr fun i hi => ?_, ih hls⟩
    exact ⟨i, decode_encode (allWellFormed_assembleLine l is hl i hi)⟩

theorem assemble_append {ls ls' : List (List Char)} {ws ws' : List CmdWord} (h : assemble ls = .ok ws)
    (h' : assemble ls' = .ok ws') : assemble (ls ++ ls') = .ok (ws ++ ws') := by
  induction ls generalizing ws with
  | nil =>
    cases h
    exact h'
  | cons l ls ih =>
    obtain ⟨is, ws'', hl, hls, rfl⟩ := exists_of_assemble_cons h
    rw [List.cons_append, assemble_cons_ok hl (ih hls), List.append_assoc]

theorem assemblesTo_of_assembleLine {line : List Char} {i : Instr} (hl : assembleLine line = .ok [i]) :
    AssemblesTo line i :=
  ⟨hl, assemble_cons_ok (ls := []) hl rfl⟩

/-- What follows a mnemonic does not begin with a letter. -/
def EndsMnemonic (rest : List Char) : Prop := rest.takeWhile Char.isAlpha = []

theorem skipBlanks_cons_of_not {c : Char} (hc : isBlank c = false) (cs : List Char) : skipBlanks (c :: cs) = c :: cs :=
  List.dropWhile_cons_of_neg (by simp [hc])

theorem skipBlanks_space (cs : List Char) : skipBlanks (' ' :: cs) = skipBlanks cs :=
  List.dropWhile_cons_of_pos rfl

theorem endsLine_cons_of_not {c : Char} (hc : isBlank c = false) (cs : List Char) : endsLine (c :: cs) = (c == ';') := by
  simp only [endsLine, skipBlanks_cons_of_not hc]

theorem endsLine_of_endsCommand {tail : List Char} (ht : EndsCommand tail) : endsLine tail = true := by
  obtain rfl | hhead := ht
  · rfl
  · obtain ⟨rest, rfl⟩ := List.head?_eq_some_iff.mp hhead
    rfl

theorem endsMnemonic_of_endsCommand {tail : List Char} (ht : EndsCommand tail) : EndsMnemonic tail := by
  obtain rfl | hhead := ht
  · rfl
  · obtain ⟨rest, rfl⟩ := List.head?_eq_some_iff.mp hhead
    rfl

theorem atLineEnd_of_endsCommand {tail : List Char} (ht : EndsCommand tail) (is : List Instr) :
    atLineEnd is tail = .ok is :=
  if_pos (endsLine_of_endsCommand ht)

theorem not_blank_of_isAlpha {c : Char} (hc : c.isAlpha = true) : isBlank c = false ∧ c ≠ ';' := by
  constructor
  · rw [isBlank, Bool.or_eq_false_iff, beq_eq_false_iff_ne, beq_eq_false_iff_ne]
    constructor
    · rintro rfl
      exact absurd hc (by decide)
    · rintro rfl
      exact absurd hc (by decide)
  · rintro rfl
    exact absurd hc (by decide)

/-- A line that begins with a name of letters is cut into the name and the rest (R63). -/
theorem line_parts {name rest : List Char} (hne : name ≠ []) (hname : ∀ c ∈ name, c.isAlpha = true)
    (hr : EndsMnemonic rest) :
    skipBlanks (name ++ rest) = name ++ rest ∧ endsLine (name ++ rest) = false ∧
      (name ++ rest).takeWhile Char.isAlpha = name ∧ (name ++ rest).dropWhile Char.isAlpha = rest := by
  have hdrop : rest.dropWhile Char.isAlpha = rest := by
    conv_rhs => rw [← List.takeWhile_append_dropWhile (p := Char.isAlpha) (l := rest), hr, List.nil_append]
  refine ⟨?_, ?_, ?_, ?_⟩
  · obtain ⟨c, cs, rfl⟩ := List.exists_cons_of_ne_nil hne
    obtain ⟨hblank, -⟩ := not_blank_of_isAlpha (hname c List.mem_cons_self)
    exact skipBlanks_cons_of_not hblank _
  · obtain ⟨c, cs, rfl⟩ := List.exists_cons_of_ne_nil hne
    obtain ⟨hblank, hsemi⟩ := not_blank_of_isAlpha (hname c List.mem_cons_self)
    rw [List.cons_append, endsLine_cons_of_not hblank, beq_eq_false_iff_ne]
    exact hsemi
  · rw [List.takeWhile_append_of_pos hname, hr, List.append_nil]
  · rw [List.dropWhile_append_of_pos hname, hdrop]

/-- A command without operand (R63). -/
theorem assembleLine_plain {p : List Char × Instr} (hp : p ∈ plainMnemonics) {rest : List Char} (hr : EndsMnemonic rest) :
    assembleLine (p.1 ++ rest) = atLineEnd [p.2] rest := by
  have hparts : ∀ q ∈ plainMnemonics, q.1 ≠ [] ∧ ∀ c ∈ q.1, c.isAlpha = true := by
    simp [plainMnemonics]
  obtain ⟨hne, hname⟩ := hparts p hp
  obtain ⟨hskip, hends, htake, hdrop⟩ := line_parts hne hname hr
  simp only [assembleLine, hskip, hends, htake, hdrop]
  simp only [plainMnemonics, List.mem_cons, List.not_mem_nil, or_false] at hp
  obtain rfl | rfl | rfl | rfl := hp
  · rfl
  · rfl
  · rfl
  · rfl

end Sys2Proof.Machine
end

section
/-! SUPPORT. Operands of a line: numbers in decimal and hexadecimal, and quoted characters (R63). -/

namespace Sys2Proof.Machine

theorem digitChar_facts :
    ∀ d < 16, isBlank (Nat.digitChar d) = false ∧ Nat.digitChar d ≠ '\'' ∧ Nat.digitChar d ≠ 'x' := by
  decide

theorem digitValue_digitChar {base d : Nat} (hd : d < base) (hb : base ≤ 16) :
    digitValue base (Nat.digitChar d) = some d := by
  have hd16 : d < 16 := hd.trans_le hb
  have hnb : ¬ base ≤ d := Nat.not_le.mpr hd
  interval_cases d <;> simp [digitValue, Nat.digitChar, hnb]

theorem digitValue_semicolon (base : Nat) : digitValue base ';' = none := by
  simp [digitValue]

theorem readDigits_of_endsCommand {tail : List Char} (ht : EndsCommand tail) (base : Nat) (acc : Option Nat) :
    readDigits base acc tail = (acc, tail) := by
  obtain rfl | hhead := ht
  · rfl
  · obtain ⟨rest, rfl⟩ := List.head?_eq_some_iff.mp hhead
    simp only [readDigits, digitValue_semicolon]

theorem readDigits_cons {base d : Nat} (hd : d < base) (hb : base ≤ 16) (acc : Option Nat) (cs : List Char) :
    readDigits base acc (Nat.digitChar d :: cs) = readDigits base (some (acc.getD 0 * base + d)) cs := by
  simp only [readDigits, digitValue_digitChar hd hb]

/-- Digits after a value `v` that is read already. -/
theorem readDigits_some {base : Nat} {digits : List Nat} {tail : List Char} (hb : base ≤ 16) (hd : ∀ d ∈ digits, d < base)
    (ht : EndsCommand tail) (v : Nat) :
    readDigits base (some v) (digits.map Nat.digitChar ++ tail) =
      (some (digits.foldl (fun v d => v * base + d) v), tail) := by
  induction digits generalizing v with
  | nil => exact readDigits_of_endsCommand ht base (some v)
  | cons d ds ih =>
    obtain ⟨hd, hds⟩ := List.forall_mem_cons.mp hd
    rw [List.map_cons, List.cons_append, readDigits_cons hd hb, ih hds]
    rfl

theorem readDigits_numeral {base : Nat} {digits : List Nat} {tail : List Char} (hb : base ≤ 16)
    (hd : ∀ d ∈ digits, d < base) (hne : digits ≠ []) (ht : EndsCommand tail) :
    readDigits base none (digits.map Nat.digitChar ++ tail) = (some (numeral base digits), tail) := by
  obtain ⟨d, ds, rfl⟩ := List.exists_cons_of_ne_nil hne
  obtain ⟨hd, hds⟩ := List.forall_mem_cons.mp hd
  rw [List.map_cons, List.cons_append, readDigits_cons hd hb, readDigits_some hb hds ht]
  rfl

/-- The second character of a decimal number is no `x`, so it is not read as hexadecimal (R63). -/
theorem readNumber_decimal {digits : List Nat} {tail : List Char} (hd : ∀ d ∈ digits, d < 10) (hne : digits ≠ [])
    (ht : EndsCommand tail) : readNumber (digits.map Nat.digitChar ++ tail) = (some (numeral 10 digits), tail) := by
  have hread := readDigits_numeral (by decide) hd hne ht
  unfold readNumber
  split
  · next rest heq =>
    exfalso
    obtain ⟨d, ds, rfl⟩ := List.exists_cons_of_ne_nil hne
    obtain ⟨-, heq⟩ := List.cons.inj heq
    cases ds with
    | nil =>
      obtain rfl | hhead := ht
      · cases heq
      · have htail : tail = 'x' :: rest := heq
        rw [htail] at hhead
        cases hhead
    | cons e ds =>
      have he : e < 10 := hd e (by simp)
      obtain ⟨-, -, hx⟩ := digitChar_facts e (by omega)
      exact hx (List.cons.inj heq).1
  · exact hread

theorem readNumber_hexadecimal {digits : List Nat} {tail : List Char} (hd : ∀ d ∈ digits, d < 16) (hne : digits ≠ [])
    (ht : EndsCommand tail) :
    readNumber ('0' :: 'x' :: (digits.map Nat.digitChar ++ tail)) = (some (numeral 16 digits), tail) :=
  readDigits_numeral le_rfl hd hne ht

/-- The text of a number after a blank, with its first character shown to be neither a blank nor a quote. -/
structure NumberText (cs : List Char) (n : Nat) (tail : List Char) : Prop where
  begins : ∃ c rest, cs = c :: rest ∧ isBlank c = false ∧ c ≠ '\''
  reads : readNumber cs = (some n, tail)

theorem skipBlanks_numberText {cs tail : List Char} {n : Nat} (hc : NumberText cs n tail) : skipBlanks (' ' :: cs) = cs := by
  obtain ⟨c, rest, rfl, hblank, -⟩ := hc.begins
  rw [skipBlanks_space, skipBlanks_cons_of_not hblank]

theorem readOperand_numberText {cs tail : List Char} {n : Nat} (hc : NumberText cs n tail) :
    readOperand (' ' :: cs) = if n < 256 then .ok (n, tail) else .error .operandTooLarge := by
  simp only [readOperand, skipBlanks_numberText hc, hc.reads]

/-- ABSORB reads a number as the other commands do. -/
theorem readByte_numberText {cs tail : List Char} {n : Nat} (hc : NumberText cs n tail) :
    readByte (' ' :: cs) =
      if n < 256 then .ok (BitVec.ofNat 8 n, tail) else .error .operandTooLarge := by
  have hop : readOperand cs = readOperand (' ' :: cs) := by
    obtain ⟨c, rest, rfl, hblank, -⟩ := hc.begins
    simp only [readOperand, skipBlanks_space]
  unfold readByte
  rw [skipBlanks_numberText hc]
  split
  · obtain ⟨c, rest, hcs, -, hne⟩ := hc.begins
    exact absurd (List.cons.inj hcs).1.symm hne
  · rw [hop, readOperand_numberText hc]
    by_cases hn : n < 256
    · simp only [if_pos hn]
    · simp only [if_neg hn]

theorem numberText_decimal {digits : List Nat} {tail : List Char} (hd : ∀ d ∈ digits, d < 10) (hne : digits ≠ [])
    (ht : EndsCommand tail) : NumberText (digits.map Nat.digitChar ++ tail) (numeral 10 digits) tail := by
  refine ⟨?_, readNumber_decimal hd hne ht⟩
  obtain ⟨d, ds, rfl⟩ := List.exists_cons_of_ne_nil hne
  have hd : d < 10 := hd d List.mem_cons_self
  obtain ⟨hblank, hquote, -⟩ := digitChar_facts d (by omega)
  exact ⟨_, _, rfl, hblank, hquote⟩

theorem numberText_hexadecimal {digits : List Nat} {tail : List Char} (hd : ∀ d ∈ digits, d < 16) (hne : digits ≠ [])
    (ht : EndsCommand tail) :
    NumberText ('0' :: 'x' :: (digits.map Nat.digitChar ++ tail)) (numeral 16 digits) tail :=
  ⟨⟨_, _, rfl, rfl, by decide⟩, readNumber_hexadecimal hd hne ht⟩

theorem withOperand_numberText {cs tail : List Char} {n : Nat} (hc : NumberText cs n tail) (mk : Nat → Instr) :
    withOperand mk (' ' :: cs) = if n < 256 then atLineEnd [mk n] tail else .error .operandTooLarge := by
  rw [withOperand, readOperand_numberText hc]
  by_cases hn : n < 256
  · simp only [if_pos hn]
  · simp only [if_neg hn]

theorem operandMnemonics_letters : ∀ p ∈ operandMnemonics, p.1 ≠ [] ∧ ∀ c ∈ p.1, c.isAlpha = true := by
  simp [operandMnemonics]

/-- ABSORB (R63). -/
theorem assembleLine_absorb {rest : List Char} (hr : EndsMnemonic rest) :
    assembleLine (['A', 'B', 'S', 'O', 'R', 'B'] ++ rest) =
      match readByte rest with
      | .ok (b, more) => atLineEnd [.absorb b] more
      | .error e => .error e := by
  obtain ⟨hne, hname⟩ := operandMnemonics_letters _ List.mem_cons_self
  obtain ⟨hskip, hends, htake, hdrop⟩ := line_parts hne hname hr
  simp only [assembleLine, hskip, hends, htake, hdrop]
  rfl

/-- A command with a number (R63). -/
theorem assembleLine_operand {p : List Char × (Nat → Instr)} (hp : p ∈ operandMnemonics) {cs tail : List Char} {n : Nat}
    (hc : NumberText cs n tail) :
    assembleLine (p.1 ++ ' ' :: cs) = if n < 256 then atLineEnd [p.2 n] tail else .error .operandTooLarge := by
  have hr : EndsMnemonic (' ' :: cs) := rfl
  obtain ⟨hne, hname⟩ := operandMnemonics_letters p hp
  obtain ⟨hskip, hends, htake, hdrop⟩ := line_parts hne hname hr
  simp only [operandMnemonics, List.mem_cons, List.not_mem_nil, or_false] at hp
  obtain rfl | rfl | rfl | rfl | rfl := hp
  · rw [assembleLine_absorb hr, readByte_numberText hc]
    by_cases hn : n < 256
    · simp only [if_pos hn]
    · simp only [if_neg hn]
  all_goals
    rw [← withOperand_numberText hc]
    simp only [assembleLine, hskip, hends, htake, hdrop]
    rfl

theorem takesOperand_numberText {p : List Char × (Nat → Instr)} (hp : p ∈ operandMnemonics) {cs tail : List Char} {n : Nat}
    (hc : NumberText cs n tail) (ht : EndsCommand tail) : TakesOperand (p.1 ++ ' ' :: cs) p.2 n := by
  have hline := assembleLine_operand hp hc
  constructor
  · intro hn
    rw [if_pos (Nat.lt_succ_of_le hn), atLineEnd_of_endsCommand ht] at hline
    exact assemblesTo_of_assembleLine hline
  · intro hn
    rw [if_neg (by omega)] at hline
    exact ⟨hline, assemble_cons_error [] hline⟩

theorem readByte_quoted {c : Char} (hc : c.toNat < 128) (tail : List Char) :
    readByte (' ' :: '\'' :: c :: '\'' :: tail) = .ok (BitVec.ofNat 8 c.toNat, tail) := by
  have hskip : skipBlanks (' ' :: '\'' :: c :: '\'' :: tail) = '\'' :: c :: '\'' :: tail := rfl
  rw [readByte, hskip]
  exact if_pos hc

end Sys2Proof.Machine
end

section
/-! PROOF. The statement on the assembler (R63). -/

namespace Sys2Proof.Machine

theorem assemblesTo_plain {p : List Char × Instr} (hp : p ∈ plainMnemonics) {tail : List Char} (ht : EndsCommand tail) :
    AssemblesTo (p.1 ++ tail) p.2 :=
  assemblesTo_of_assembleLine
    ((assembleLine_plain hp (endsMnemonic_of_endsCommand ht)).trans (atLineEnd_of_endsCommand ht _))

theorem assemblesTo_quoted {c : Char} (hc : c.toNat < 128) {tail : List Char} (ht : EndsCommand tail) :
    AssemblesTo (['A', 'B', 'S', 'O', 'R', 'B', ' ', '\'', c, '\''] ++ tail) (.absorb (BitVec.ofNat 8 c.toNat)) := by
  have hline := assembleLine_absorb (rest := ' ' :: '\'' :: c :: '\'' :: tail) rfl
  rw [readByte_quoted hc] at hline
  exact assemblesTo_of_assembleLine (hline.trans (atLineEnd_of_endsCommand ht _))

/-- Settles O57: each form of a line by its lemma; every assembled word is the encoding of a well-formed command. -/
theorem assembledWordsAreCommands : Obligations.AssembledWordsAreCommands := by
  refine ⟨allWellFormed_assembleLine, fun _ _ => decode_of_mem_assemble, fun p hp _ => assemblesTo_plain hp,
    fun p hp digits tail hne ht => ⟨fun hd => ?_, fun hd => ?_⟩, fun _ _ hc => assemblesTo_quoted hc,
    fun _ _ _ _ => assemble_append⟩
  · have hop := takesOperand_numberText hp (numberText_decimal hd hne ht) ht
    rwa [List.append_assoc, List.append_assoc, List.singleton_append]
  · have hop := takesOperand_numberText hp (numberText_hexadecimal hd hne ht) ht
    rwa [List.append_assoc, List.append_assoc]

end Sys2Proof.Machine
end

section
/-! PROOF. The statement on the scheduler that holds 16 words (R84). -/

namespace Sys2Proof.Machine

theorem getElem_windowShift_of_lt {j : Nat} (v : Vector Word 16) (hj : j < 15) : (windowShift v)[j] = v[j + 1] := by
  simp only [windowShift, Vector.getElem_ofFn, dif_pos hj]

theorem getElem_windowShift_last (v : Vector Word 16) :
    (windowShift v)[15] = sumWords [v[0], smallSigma0 v[1], v[9], smallSigma1 v[14]] := by
  simp only [windowShift, Vector.getElem_ofFn, lt_irrefl, dite_false]

/-- A shift of the window that holds W[n] to W[n + 15] appends W[n + 16], by the recurrence of R82. -/
theorem getElem_windowShift_schedule {b : Block} {v : Vector Word 16} {n : Nat} (hn : n + 1 ≤ 48)
    (hv : ∀ j, (hj : j < 16) → v[j] = (schedule b)[n + j]) {j : Nat} (hj : j < 16) :
    (windowShift v)[j] = (schedule b)[n + 1 + j] := by
  by_cases hlow : j < 15
  · rw [getElem_windowShift_of_lt v hlow, hv (j + 1) (by omega)]
    congr 1
    omega
  · obtain rfl : j = 15 := by omega
    have hi : 16 ≤ n + 1 + 15 ∧ n + 1 + 15 < 64 := by omega
    rw [getElem_windowShift_last, hv 0 (by decide), hv 1 (by decide), hv 9 (by decide), hv 14 (by decide),
      getElem_schedule_eq_nextWord b hi, nextWord]
    rfl

/-- The window after n steps holds the words W[n] to W[n + 15] (R84). -/
theorem getElem_windowAfter (b : Block) {n j : Nat} (hn : n ≤ 48) (hj : j < 16) :
    (windowAfter b n)[j] = (schedule b)[n + j] := by
  induction n generalizing j with
  | zero =>
    simp only [windowAfter, windowStart, Vector.getElem_ofFn, Nat.zero_add]
    exact (getElem_schedule_of_lt_16 b ⟨j, hj⟩).symm
  | succ n ih => exact getElem_windowShift_schedule hn (fun _ hj => ih (by omega) hj) hj

/-- Settles O14: the word of a round is in the first window or the newest of a later one, both by `getElem_windowAfter`. -/
theorem windowSchedulerAgrees : Obligations.WindowSchedulerAgrees := by
  intro b i
  unfold windowWord
  split
  · next hi =>
    have hfirst := getElem_windowAfter b (Nat.zero_le 48) hi
    simpa only [windowAfter, Nat.zero_add] using hfirst
  · next hi =>
    have hlast : i.val - 15 + 15 = i.val := by omega
    rw [getElem_windowAfter b (by omega) (by decide)]
    simp only [hlast]

end Sys2Proof.Machine
end
